-- ==== Sys2Proof/Config.lean ====
section
/-! DEFINITION. What an instance of Float32BitCodec fixes: the constants of rule R5 and R6, and the two OPEN
parameters of R6 as opaque constants that no proof can evaluate. -/

namespace Sys2Proof.Config

/-- `WORD_W` (R5): width in bits of a FloatValue and of a BitPattern. -/
abbrev wordW : Nat := 32
/-- `LANE_W` (R5): width in bits of one byte lane. -/
abbrev laneW : Nat := 8
/-- `N_LANES` (R5): number of byte lanes. -/
abbrev nLanes : Nat := 4
/-- `HEX_DIGITS` (R5): number of hexadecimal digits `renderHex` produces. -/
abbrev hexDigits : Nat := 8
/-- `HEX_OUT_LEN` (R5): length in characters of the output of `renderHex`. -/
abbrev hexOutLen : Nat := 10
/-- `OP_W` (R6, decision D3): width in bits of the operation-select port. -/
abbrev opW : Nat := 4
/-- `CHAR_W` (R6, decision D5): width in bits of one character code. -/
abbrev charW : Nat := 8

/-- How far `HEX_IN_MAX` exceeds its least legal value 10 (R6, D6). OPEN: an opaque constant without a body, so that
every claim holds for every instance (log entry 3). -/
opaque hexInMaxBeyondTen : Nat

/-- `HEX_IN_MAX` (R6, D6, U9): the number of character slots of the port `hex_in`. OPEN but for `HEX_IN_MAX >= 10`. -/
def hexInMax : Nat := hexInMaxBeyondTen + 10

/-- `HEX_LEN_W` (R6): the least `w` with `2^w > HEX_IN_MAX`, the width in bits of the port `hex_len`. -/
def hexLenW : Nat := Nat.log2 hexInMax + 1

/-- `LATENCY` (R6, R108, U8): the time between a request and its response. OPEN; no rule of the spec reads it and
no definition of this model does (log entry 4). -/
opaque latency : Nat

end Sys2Proof.Config
end

