-- ==== Sys2Proof/Word.lean ====
section
/-! DEFINITION. The value types of `10_state.md` section 2 and `00_scope.md` rule R8. All are unsigned. The
widths are those of rules R5 and R6 (`Config`), written out. -/

namespace Sys2Proof

/-- BitPattern, `UInt32` (R19): a 32-bit unsigned integer; every value is legal. -/
abbrev BitPattern := BitVec 32

/-- One byte lane, unsigned (R8, R59). -/
abbrev Byte := BitVec 8

/-- A character code (R43): one 8-bit code. -/
abbrev CharCode := BitVec 8

/-- A 4-bit slice of a BitPattern, one hexadecimal digit (R8). -/
abbrev Nibble := BitVec 4

/-- The string operand (R8, R42): a finite sequence of character codes, `s[0]` first. -/
abbrev HexInput := List CharCode

/-- What the ports `hex_out[0]` to `hex_out[9]` carry (R38): exactly ten character codes, `hex_out[0]` first. -/
abbrev HexString := Vector CharCode 10

/-- FloatValue, `Float32` (R18, R46, R54): the 32 bits of an IEEE-754 value under a type tag of their own. Two are equal
only if all 32 bits agree, so `+0` and `-0` differ and every NaN pattern is a different value. -/
structure FloatValue where
  /-- The 32 wires; bit 31 is the sign bit. -/
  pattern : BitPattern
deriving DecidableEq, Repr

/-- ByteLanes, `[Byte;4]` (R20): `lane0` is the most significant byte, `lane3` the least. -/
structure ByteLanes where
  lane0 : Byte
  lane1 : Byte
  lane2 : Byte
  lane3 : Byte
deriving DecidableEq, Repr

/-- `lanes[k]` (R8, R20). -/
def ByteLanes.get (lanes : ByteLanes) (k : Fin 4) : Byte :=
  match k with
  | 0 => lanes.lane0
  | 1 => lanes.lane1
  | 2 => lanes.lane2
  | 3 => lanes.lane3

end Sys2Proof
end

