-- ==== Sys2Proof/Syntax.lean ====
section
/-! DEFINITION. The instruction of this hardware is one request (R37). `Instr` is a request as the operation sees it: the
selected operation and the operand of its format. `Request` is what stands on the request ports (R38). -/

namespace Sys2Proof

/-- The ten operations (R39, R2), each with the operand its format reads (R38). -/
inductive Instr where
  /-- `op = 0x0`, format F: R50. -/
  | floatToBits (f : FloatValue)
  /-- `op = 0x1`, format B: R51. -/
  | bitsToFloat (bits : BitPattern)
  /-- `op = 0x2`, format B: R56. -/
  | decomposeToLanes (bits : BitPattern)
  /-- `op = 0x3`, format L: R57. -/
  | composeFromLanes (lanes : ByteLanes)
  /-- `op = 0x4`, format B: R61. -/
  | renderHex (bits : BitPattern)
  /-- `op = 0x5`, format S: R64. -/
  | parseHex (str : HexInput)
  /-- `op = 0x6`, format F: R73. -/
  | floatToLanes (f : FloatValue)
  /-- `op = 0x7`, format L: R74. -/
  | lanesToFloat (lanes : ByteLanes)
  /-- `op = 0x8`, format F: R75. -/
  | floatToHex (f : FloatValue)
  /-- `op = 0x9`, format S: R76. -/
  | hexToFloat (str : HexInput)
deriving DecidableEq, Repr

/-- The names of the ten operations, without operands (R39). -/
inductive Operation where
  | floatToBits
  | bitsToFloat
  | decomposeToLanes
  | composeFromLanes
  | renderHex
  | parseHex
  | floatToLanes
  | lanesToFloat
  | floatToHex
  | hexToFloat
deriving DecidableEq, Repr

/-- The four formats (R38): which operand ports an operation reads. -/
inductive Format where
  /-- Reads `f_in`. -/
  | F
  /-- Reads `bits_in`. -/
  | B
  /-- Reads `lane_in0..3`. -/
  | L
  /-- Reads `hex_len` and `hex_in[0 .. hex_len - 1]`. -/
  | S
deriving DecidableEq, Repr

/-- The result ports an operation drives (R39, column "drives"). -/
inductive ResultPort where
  | bitsOut
  | fOut
  | laneOut
  | hexOut
deriving DecidableEq, Repr

/-- What the host presents on the request ports of the block in one transaction (R38), one sample (R32). -/
structure Request where
  /-- `op`, 4 bits. -/
  op : BitVec 4
  /-- `f_in`, 32 bits. -/
  fIn : FloatValue
  /-- `bits_in`, 32 bits. -/
  bitsIn : BitPattern
  /-- `lane_in0` to `lane_in3`, 8 bits each; `lane_in<k>` is `lanes[k]`. -/
  laneIn : ByteLanes
  /-- `hex_len`: the value on that port. -/
  hexLen : Nat
  /-- `hex_in[0]`, `hex_in[1]`, ...: the character slots in order. A bundle of this hardware has `HEX_IN_MAX` of them
  (`Request.wellFormed`). -/
  hexIn : List CharCode
deriving DecidableEq, Repr

/-- Why a request has no meaning (R92). -/
inductive DecodeError where
  /-- A reserved select code `0xA` to `0xF` (R40, R92 a). -/
  | reservedSelect (op : BitVec 4)
  /-- `hex_len` of a format-S request names slots that do not exist (R42, R92 b). -/
  | hexLenBeyondSlots (hexLen : Nat)
deriving DecidableEq, Repr

end Sys2Proof
end

