-- ==== Sys2Proof/WellFormed.lean ====
section
/-! DEFINITION. Which instructions a host can present, and which port bundles exist on this hardware. -/

namespace Sys2Proof

/-- A string operand fits the slots of `hex_in` (R42, R92 c). -/
def presentable (str : HexInput) : Bool := decide (str.length ≤ Config.hexInMax)

/-- An instruction can be presented on the request ports. Every operand but a string is legal at every value (R19, R20,
R53, R58); a string is legal when it fits `HEX_IN_MAX` slots (R92 c). -/
def Instr.wellFormed : Instr → Bool
  | .floatToBits _ => true
  | .bitsToFloat _ => true
  | .decomposeToLanes _ => true
  | .composeFromLanes _ => true
  | .renderHex _ => true
  | .parseHex str => presentable str
  | .floatToLanes _ => true
  | .lanesToFloat _ => true
  | .floatToHex _ => true
  | .hexToFloat str => presentable str

/-- A port bundle of this hardware (R38): `hex_in` has exactly `HEX_IN_MAX` slots and the value on `hex_len` fits its
`HEX_LEN_W` wires. The other ports have their widths by type. -/
def Request.wellFormed (r : Request) : Bool :=
  decide (r.hexIn.length = Config.hexInMax) && decide (r.hexLen < 2 ^ Config.hexLenW)

end Sys2Proof
end

