-- ==== Sys2Proof/Decode.lean ====
section
/-! DEFINITION. From the request ports to the operation and its operand (R37 to R42), total, refusing by name; and back:
the port bundle that presents an instruction. The only encoded field is `op[3:0]`. -/

namespace Sys2Proof

/-! ### The operation map (R39) -/

/-- The select code of an operation (R39). -/
def Operation.select : Operation → BitVec 4
  | .floatToBits => 0x0#4
  | .bitsToFloat => 0x1#4
  | .decomposeToLanes => 0x2#4
  | .composeFromLanes => 0x3#4
  | .renderHex => 0x4#4
  | .parseHex => 0x5#4
  | .floatToLanes => 0x6#4
  | .lanesToFloat => 0x7#4
  | .floatToHex => 0x8#4
  | .hexToFloat => 0x9#4

/-- The format column of R39. -/
def Operation.format : Operation → Format
  | .floatToBits => .F
  | .bitsToFloat => .B
  | .decomposeToLanes => .B
  | .composeFromLanes => .L
  | .renderHex => .B
  | .parseHex => .S
  | .floatToLanes => .F
  | .lanesToFloat => .L
  | .floatToHex => .F
  | .hexToFloat => .S

/-- The "drives" column of R39. -/
def Operation.drives : Operation → ResultPort
  | .floatToBits => .bitsOut
  | .bitsToFloat => .fOut
  | .decomposeToLanes => .laneOut
  | .composeFromLanes => .bitsOut
  | .renderHex => .hexOut
  | .parseHex => .bitsOut
  | .floatToLanes => .laneOut
  | .lanesToFloat => .fOut
  | .floatToHex => .hexOut
  | .hexToFloat => .fOut

/-- The "can set `err`" column of R39 (R82). -/
def Operation.canSetErr : Operation → Bool
  | .floatToBits => false
  | .bitsToFloat => false
  | .decomposeToLanes => false
  | .composeFromLanes => false
  | .renderHex => false
  | .parseHex => true
  | .floatToLanes => false
  | .lanesToFloat => false
  | .floatToHex => false
  | .hexToFloat => true

/-- Exact match of all four bits of `op` (R39); the codes `0xA` to `0xF` are reserved (R40). -/
def Operation.ofSelect (op : BitVec 4) : Option Operation :=
  match op.toNat with
  | 0x0 => some .floatToBits
  | 0x1 => some .bitsToFloat
  | 0x2 => some .decomposeToLanes
  | 0x3 => some .composeFromLanes
  | 0x4 => some .renderHex
  | 0x5 => some .parseHex
  | 0x6 => some .floatToLanes
  | 0x7 => some .lanesToFloat
  | 0x8 => some .floatToHex
  | 0x9 => some .hexToFloat
  | _ => none

/-- The operation an instruction asks for. -/
def Instr.operation : Instr → Operation
  | .floatToBits _ => .floatToBits
  | .bitsToFloat _ => .bitsToFloat
  | .decomposeToLanes _ => .decomposeToLanes
  | .composeFromLanes _ => .composeFromLanes
  | .renderHex _ => .renderHex
  | .parseHex _ => .parseHex
  | .floatToLanes _ => .floatToLanes
  | .lanesToFloat _ => .lanesToFloat
  | .floatToHex _ => .floatToHex
  | .hexToFloat _ => .hexToFloat

/-! ### Decoding -/

/-- The string operand (R42): `s[i] = hex_in[i]` for `i < hex_len`, later slots ignored, no terminator. A `hex_len` that
names slots that do not exist has no meaning (R92 b). A bundle that lists fewer slots than `hex_len` names is no bundle of
this hardware and is refused the same way (DESIGN CHOICE, log entry 10). -/
def Request.stringOperand (r : Request) : Except DecodeError HexInput :=
  if r.hexLen ≤ Config.hexInMax ∧ r.hexLen ≤ r.hexIn.length then .ok (r.hexIn.take r.hexLen)
  else .error (.hexLenBeyondSlots r.hexLen)

/-- The instruction on the request ports, or why there is none. An operation reads the operand ports of its format only
(R41). -/
def decode (r : Request) : Except DecodeError Instr :=
  match Operation.ofSelect r.op with
  | none => .error (.reservedSelect r.op)
  | some .floatToBits => .ok (.floatToBits r.fIn)
  | some .bitsToFloat => .ok (.bitsToFloat r.bitsIn)
  | some .decomposeToLanes => .ok (.decomposeToLanes r.bitsIn)
  | some .composeFromLanes => .ok (.composeFromLanes r.laneIn)
  | some .renderHex => .ok (.renderHex r.bitsIn)
  | some .parseHex => r.stringOperand.map .parseHex
  | some .floatToLanes => .ok (.floatToLanes r.fIn)
  | some .lanesToFloat => .ok (.lanesToFloat r.laneIn)
  | some .floatToHex => .ok (.floatToHex r.fIn)
  | some .hexToFloat => r.stringOperand.map .hexToFloat

/-! ### Encoding -/

/-- A bundle with the select code `op`, zero on every other port and the code 0 in every slot. -/
def Request.zeros (op : BitVec 4) : Request :=
  { op := op
    fIn := ⟨0⟩
    bitsIn := 0
    laneIn := ⟨0, 0, 0, 0⟩
    hexLen := 0
    hexIn := List.replicate Config.hexInMax 0 }

/-- A string on the ports of format S: its characters in the first slots, its length on `hex_len`, the code 0 in the slots
that are left. -/
def Request.withString (r : Request) (str : HexInput) : Request :=
  { r with
    hexLen := str.length
    hexIn := str ++ List.replicate (Config.hexInMax - str.length) 0 }

/-- The bundle that presents an instruction. What stands on the ports the operation does not read cannot matter (R41); zero
is chosen (DESIGN CHOICE, log entry 8). -/
def encode (i : Instr) : Request :=
  let blank := Request.zeros i.operation.select
  match i with
  | .floatToBits f => { blank with fIn := f }
  | .bitsToFloat bits => { blank with bitsIn := bits }
  | .decomposeToLanes bits => { blank with bitsIn := bits }
  | .composeFromLanes lanes => { blank with laneIn := lanes }
  | .renderHex bits => { blank with bitsIn := bits }
  | .parseHex str => blank.withString str
  | .floatToLanes f => { blank with fIn := f }
  | .lanesToFloat lanes => { blank with laneIn := lanes }
  | .floatToHex f => { blank with fIn := f }
  | .hexToFloat str => blank.withString str

/-! ### The words of `opcode_table.json` -/

/-- The request a word of the operation table stands for (DESIGN CHOICE, log entry 5): its bits 3 to 0 are the port `op`
(the table's mask is `0xF`; the port has no other wire), and every operand port, which the table gives no bits, is zero. -/
def requestOfTableWord (nbits w : Nat) : Request :=
  Request.zeros (BitVec.ofNat 4 (w % 2 ^ nbits))

/-- The instruction the decoder reads from a word of the operation table, operand ports zero. -/
def decodeTableWord (nbits w : Nat) : Option Instr :=
  match decode (requestOfTableWord nbits w) with
  | .ok i => some i
  | .error _ => none

end Sys2Proof
end

