-- ==== Sys2Proof/Machine/State.lean ====
section
/-! DEFINITION. The state of a run, the outcomes, and the state after reset. The block itself has NO state (R10 to R17):
what stands here is the environment's side of a run (R9), the requests the host has still to present and the responses given
so far. -/

namespace Sys2Proof.Machine

/-- One response (R38, R41): the result ports the operation drives, or the one error (R80). A sum type with one alternative
per result type, as R41 asks: result ports the operation does not drive, and every result port when `err` is 1 (R71), have
no value here (log entry 7). -/
inductive Response where
  /-- `f_out`, with `err = 0`. -/
  | float (fOut : FloatValue)
  /-- `bits_out`, with `err = 0`. -/
  | bits (bitsOut : BitPattern)
  /-- `lane_out0` to `lane_out3`, with `err = 0`. -/
  | lanes (laneOut : ByteLanes)
  /-- `hex_out[0]` to `hex_out[9]`, with `err = 0`. -/
  | hex (hexOut : HexString)
  /-- `err = 1`: MalformedHexInput, with no result and no payload (R71, R83). -/
  | malformedHexInput
deriving DecidableEq, Repr

/-- A run of the block (R9). -/
structure State where
  /-- The requests the host has chosen and not yet presented, the next one first. Of the environment, not of the block. -/
  pending : List Request
  /-- The responses given so far, oldest first: "the observation of a run is the list of responses" (R9). No operation reads
  it (R13, R17). -/
  responses : List Response
deriving DecidableEq, Repr

/-- There is no fault: "Nothing in this hardware is treated as `fault` or `stuck`" (93_implementation_defined.md section 1).
The one error is a response (R80), and the block never blocks (R94). The type has no constructor. -/
inductive Fault : Type
deriving DecidableEq, Repr

/-- Requests that have no meaning (R92): the model gives them no step. Each is safe: nothing can be proved of a response to
such a request. -/
inductive Refusal where
  /-- An instruction without a meaning in this model. Raised by nothing: every operation has its meaning. Safe. -/
  | notModelled (mnemonic : String)
  /-- Raised by `step` on a reserved select code `0xA` to `0xF` (R40, R92 a). Safe. -/
  | reservedSelect (op : BitVec 4)
  /-- Raised by `step` on a format-S request whose `hex_len` names slots that do not exist (R42, R92 b). Safe. -/
  | hexLenBeyondSlots (hexLen : Nat)
  /-- Raised by `execParseHex` and `execHexToFloat` on a string longer than `HEX_IN_MAX`, which no caller can present
  (R92 c). Safe. -/
  | stringNotPresentable (length : Nat)
deriving DecidableEq, Repr

/-- The state right after reset (R95, R97, R98): the block has nothing to reset; no request is pending and no response has
been given (DESIGN CHOICE for the environment's two lists, log entry 1). -/
def State.reset : State := { pending := [], responses := [] }

end Sys2Proof.Machine
end

