-- ==== Sys2Proof/Machine/Flags.lean ====
section
/-! DEFINITION. The block has no flags (R13). Its one status bit is the `err` bit of a response (R38, R80), a function of
that response alone and not sticky. -/

namespace Sys2Proof.Machine

/-- The response port `err` (R80): 1 is MalformedHexInput, 0 is success. -/
def Response.err : Response → BitVec 1
  | .float _ => 0#1
  | .bits _ => 0#1
  | .lanes _ => 0#1
  | .hex _ => 0#1
  | .malformedHexInput => 1#1

/-- The result port a response drives; none when it is the error (R41, R71). -/
def Response.port : Response → Option ResultPort
  | .float _ => some .fOut
  | .bits _ => some .bitsOut
  | .lanes _ => some .laneOut
  | .hex _ => some .hexOut
  | .malformedHexInput => none

end Sys2Proof.Machine
end

