-- ==== Sys2Proof/Machine/Ops.lean ====
section
/-! DEFINITION. The operations on the state of a run that the meanings share: giving a response, raising the one error. -/

namespace Sys2Proof.Machine

/-- Gives the response to the transaction in progress: the one effect an operation has (R9, R33). -/
def State.respond (s : State) (r : Response) : State :=
  { s with responses := s.responses ++ [r] }

/-- `raise MalformedHexInput` (R80, R87): the response of the same transaction is the error, with no result. Nothing is
saved, no mode changes and control goes nowhere; there is no return from it, the next request is answered as if this one had
not happened (R88). -/
def State.raiseMalformedHexInput (s : State) : State :=
  s.respond .malformedHexInput

/-- Gives the result an operation has, or raises the error where it has none (R64, R76). -/
def State.respondOrRaise (s : State) (result : Option Response) : State :=
  match result with
  | some r => s.respond r
  | none => s.raiseMalformedHexInput

/-- The meaning of a format-S operation with the given result: a string that no caller can present is refused (R92 c);
every other string is answered (R94). -/
def answerString (str : HexInput) (result : Option Response) (s : State) : Host.Outcome State Fault Refusal :=
  if presentable str then .next (s.respondOrRaise result)
  else .refused (.stringNotPresentable str.length)

end Sys2Proof.Machine
end

