-- ==== Sys2Proof/Machine/BitCast.lean ====
section
/-! DEFINITION. Sub-block float32_bit_cast (R50 to R54): the type tag's projection and constructor. No bit changes. -/

namespace Sys2Proof.Machine

/-- `floatToBits` (R50): the same 32 wires, bit `i` to bit `i`. -/
def floatToBits (f : FloatValue) : BitPattern := f.pattern

/-- `bitsToFloat` (R51): the same 32 wires, bit `i` to bit `i`. -/
def bitsToFloat (bits : BitPattern) : FloatValue := ⟨bits⟩

/-- `floatToBits`, `op = 0x0` (R50). -/
def execFloatToBits (f : FloatValue) (s : State) : Host.Outcome State Fault Refusal :=
  .next (s.respond (.bits (floatToBits f)))

/-- `bitsToFloat`, `op = 0x1` (R51). -/
def execBitsToFloat (bits : BitPattern) (s : State) : Host.Outcome State Fault Refusal :=
  .next (s.respond (.float (bitsToFloat bits)))

end Sys2Proof.Machine
end

