-- ==== Sys2Proof/Machine/Operands.lean ====
section
/-! DEFINITION. Parts of operands: lanes and nibbles of a word (R20, R25, R28) and the character tables (R43 to R45, R66).
The codes are ASCII, which the spec takes from general knowledge (K2; PRESUMED, log entry 13). -/

namespace Sys2Proof.Machine

/-- `b[31 - 8k : 24 - 8k]`, which is `lanes[k]` for `k = 0 .. 3` (R25). -/
def laneAt (b : BitPattern) (k : Nat) : Byte := b.extractLsb' (24 - 8 * k) 8

/-- `b[31 - 4k : 28 - 4k]` for `k = 0 .. 7`: the nibble that `hex_out[2 + k]` renders (R28, R62). -/
def nibbleAt (b : BitPattern) (k : Nat) : Nibble := b.extractLsb' (28 - 4 * k) 4

/-- `'0'` (R43). -/
abbrev charZero : CharCode := 0x30#8
/-- `'x'` (R43). -/
abbrev charLowerX : CharCode := 0x78#8
/-- `'X'` (R43). -/
abbrev charUpperX : CharCode := 0x58#8

/-- `HEXCHAR` (R45): uppercase digits. A look-up table would answer the same (R63). -/
def hexChar (n : Nibble) : CharCode :=
  if n ≤ 9#4 then 0x30#8 + n.zeroExtend 8 else 0x37#8 + n.zeroExtend 8

/-- `DIGITVAL` (R44): the value of a hex character of either case; none for every other code. -/
def digitVal (c : CharCode) : Option Nibble :=
  if 0x30#8 ≤ c ∧ c ≤ 0x39#8 then some ((c - 0x30#8).truncate 4)
  else if 0x41#8 ≤ c ∧ c ≤ 0x46#8 then some ((c - 0x37#8).truncate 4)
  else if 0x61#8 ≤ c ∧ c ≤ 0x66#8 then some ((c - 0x57#8).truncate 4)
  else none

/-- The string after its optional prefix `0x` or `0X`, which is recognised at indices 0 and 1 only and once only
(R64, R66). -/
def stripHexPrefix : HexInput → HexInput
  | c0 :: c1 :: rest =>
    if c0 = charZero ∧ (c1 = charLowerX ∨ c1 = charUpperX) then rest else c0 :: c1 :: rest
  | str => str

end Sys2Proof.Machine
end

