-- ==== Sys2Proof/Machine/Hex.lean ====
section
/-! DEFINITION. Sub-blocks hex_encoder and hex_decoder (R61 to R72). -/

namespace Sys2Proof.Machine

/-- `renderHex` (R61, R62): `0x` and eight uppercase digits, the most significant first. -/
def renderHex (bits : BitPattern) : HexString :=
  #v[charZero, charLowerX,
    hexChar (nibbleAt bits 0), hexChar (nibbleAt bits 1), hexChar (nibbleAt bits 2), hexChar (nibbleAt bits 3),
    hexChar (nibbleAt bits 4), hexChar (nibbleAt bits 5), hexChar (nibbleAt bits 6), hexChar (nibbleAt bits 7)]

/-- The loop of R64 over the characters after the prefix, from the value `v` read so far: none at the first non-hex
character (R68). The value is unbounded. -/
def hexValueFrom (v : Nat) : HexInput → Option Nat
  | [] => some v
  | c :: rest =>
    match digitVal c with
    | none => none
    | some d => hexValueFrom (16 * v + d.toNat) rest

/-- `parseHex` (R64): none is MalformedHexInput. No digits (R67), a non-hex character (R68) and a value of `2^32` or more
(R69, policy reject: D7) fail. -/
def parseHex (str : HexInput) : Option BitPattern :=
  match stripHexPrefix str with
  | [] => none
  | digits@(_ :: _) =>
    match hexValueFrom 0 digits with
    | none => none
    | some v => if v < 2 ^ 32 then some (BitVec.ofNat 32 v) else none

/-- The loop of R64 in 32-bit hardware arithmetic only: `acc` and the overflow bit `ovf`. -/
def hexAccFrom (acc : BitPattern) (ovf : Bool) : HexInput → Option (BitPattern × Bool)
  | [] => some (acc, ovf)
  | c :: rest =>
    match digitVal c with
    | none => none
    | some d => hexAccFrom (acc.extractLsb' 0 28 ++ d) (ovf || acc.extractLsb' 28 4 != 0#4) rest

/-- `parseHex` as R64 gives it a second time, "with 32-bit hardware arithmetic only". -/
def parseHexInHardware (str : HexInput) : Option BitPattern :=
  match stripHexPrefix str with
  | [] => none
  | digits@(_ :: _) =>
    match hexAccFrom 0 false digits with
    | none => none
    | some (acc, ovf) => if ovf then none else some acc

/-- `renderHex`, `op = 0x4` (R61). -/
def execRenderHex (bits : BitPattern) (s : State) : Host.Outcome State Fault Refusal :=
  .next (s.respond (.hex (renderHex bits)))

/-- `parseHex`, `op = 0x5` (R64, R71). -/
def execParseHex (str : HexInput) (s : State) : Host.Outcome State Fault Refusal :=
  answerString str ((parseHex str).map .bits) s

end Sys2Proof.Machine
end

