-- ==== Sys2Proof/Machine/Lanes.lean ====
section
/-! DEFINITION. Sub-blocks byte_lane_splitter and byte_lane_joiner (R56 to R60), big-endian (R25). -/

namespace Sys2Proof.Machine

/-- `decomposeToLanes` (R56). -/
def decomposeToLanes (bits : BitPattern) : ByteLanes :=
  { lane0 := laneAt bits 0
    lane1 := laneAt bits 1
    lane2 := laneAt bits 2
    lane3 := laneAt bits 3 }

/-- `composeFromLanes` (R57): each lane zero-extended to 32 bits, then shifted, then ORed (R59). -/
def composeFromLanes (lanes : ByteLanes) : BitPattern :=
  (lanes.lane0.zeroExtend 32 <<< 24) ||| (lanes.lane1.zeroExtend 32 <<< 16) |||
    (lanes.lane2.zeroExtend 32 <<< 8) ||| lanes.lane3.zeroExtend 32

/-- `decomposeToLanes`, `op = 0x2` (R56). -/
def execDecomposeToLanes (bits : BitPattern) (s : State) : Host.Outcome State Fault Refusal :=
  .next (s.respond (.lanes (decomposeToLanes bits)))

/-- `composeFromLanes`, `op = 0x3` (R57). -/
def execComposeFromLanes (lanes : ByteLanes) (s : State) : Host.Outcome State Fault Refusal :=
  .next (s.respond (.bits (composeFromLanes lanes)))

end Sys2Proof.Machine
end

