-- ==== Sys2Proof/Machine/Compositions.lean ====
section
/-! DEFINITION. The four compositions (R73 to R78): two sub-blocks wired in series, answered in one transaction. -/

namespace Sys2Proof.Machine

/-- `floatToLanes = decomposeToLanes ∘ floatToBits` (R73). -/
def floatToLanes (f : FloatValue) : ByteLanes := decomposeToLanes (floatToBits f)

/-- `lanesToFloat = bitsToFloat ∘ composeFromLanes` (R74). -/
def lanesToFloat (lanes : ByteLanes) : FloatValue := bitsToFloat (composeFromLanes lanes)

/-- `floatToHex = renderHex ∘ floatToBits` (R75). -/
def floatToHex (f : FloatValue) : HexString := renderHex (floatToBits f)

/-- `hexToFloat = bitsToFloat ∘ parseHex` (R76): where the inner `parseHex` raises, `bitsToFloat` is not applied (R78). -/
def hexToFloat (str : HexInput) : Option FloatValue := (parseHex str).map bitsToFloat

/-- `floatToLanes`, `op = 0x6` (R73). -/
def execFloatToLanes (f : FloatValue) (s : State) : Host.Outcome State Fault Refusal :=
  .next (s.respond (.lanes (floatToLanes f)))

/-- `lanesToFloat`, `op = 0x7` (R74). -/
def execLanesToFloat (lanes : ByteLanes) (s : State) : Host.Outcome State Fault Refusal :=
  .next (s.respond (.float (lanesToFloat lanes)))

/-- `floatToHex`, `op = 0x8` (R75). -/
def execFloatToHex (f : FloatValue) (s : State) : Host.Outcome State Fault Refusal :=
  .next (s.respond (.hex (floatToHex f)))

/-- `hexToFloat`, `op = 0x9` (R76, R78). -/
def execHexToFloat (str : HexInput) (s : State) : Host.Outcome State Fault Refusal :=
  answerString str ((hexToFloat str).map .float) s

end Sys2Proof.Machine
end

