-- ==== Sys2Proof/Machine/Dispatch.lean ====
section
/-! DEFINITION. One arm per operation. -/

namespace Sys2Proof.Machine

def exec (i : Instr) (s : State) : Host.Outcome State Fault Refusal :=
  match i with
  | .floatToBits f => Sys2Proof.Machine.execFloatToBits f s
  | .bitsToFloat bits => Sys2Proof.Machine.execBitsToFloat bits s
  | .decomposeToLanes bits => Sys2Proof.Machine.execDecomposeToLanes bits s
  | .composeFromLanes lanes => Sys2Proof.Machine.execComposeFromLanes lanes s
  | .renderHex bits => Sys2Proof.Machine.execRenderHex bits s
  | .parseHex str => Sys2Proof.Machine.execParseHex str s
  | .floatToLanes f => Sys2Proof.Machine.execFloatToLanes f s
  | .lanesToFloat lanes => Sys2Proof.Machine.execLanesToFloat lanes s
  | .floatToHex f => Sys2Proof.Machine.execFloatToHex f s
  | .hexToFloat str => Sys2Proof.Machine.execHexToFloat str s

end Sys2Proof.Machine
end

