-- ==== Sys2Proof/Machine/Step.lean ====
section
/-! DEFINITION. One step is one transaction (R9): the host presents its next request, the block gives the response. -/

namespace Sys2Proof.Machine

/-- The refusal that stands for a request without a meaning (R92). -/
def refusalOf : DecodeError → Refusal
  | .reservedSelect op => .reservedSelect op
  | .hexLenBeyondSlots hexLen => .hexLenBeyondSlots hexLen

/-- One transaction. The request is taken off the host's list, decoded and answered. With no request pending the run has
ended (R9): nothing happens and no response exists (R97; DESIGN CHOICE, log entry 2). -/
def step (s : State) : Host.Outcome State Fault Refusal :=
  match s.pending with
  | [] => .next s
  | r :: rest =>
    match decode r with
    | .error e => .refused (refusalOf e)
    | .ok i => exec i { s with pending := rest }

/-- The state with the request of a table word as the next one the host presents (log entry 5). -/
def State.withFetchWord (s : State) (nbits w : Nat) : State :=
  { s with pending := requestOfTableWord nbits w :: s.pending }

end Sys2Proof.Machine
end

