-- ==== Sys2Proof/Machine/FloatReading.lean ====
section
/-! DEFINITION. The numeric reading of a FloatValue (R18, R55): which number a pattern denotes. No operation of this hardware
calls it (R54, R55); it names patterns in tests and in claims. IEEE-754 binary32, which the spec takes from general knowledge
(K1, K3; PRESUMED, log entry 14). -/

namespace Sys2Proof.Machine

/-- The classes of R55. -/
inductive FloatClass where
  | zero
  | subnormal
  | normal
  | infinity
  | quietNaN
  | signallingNaN
deriving DecidableEq, Repr

/-- `s = b[31]`. -/
def floatSign (f : FloatValue) : Bool := f.pattern.getLsbD 31

/-- `e = b[30:23]`. -/
def floatExponent (f : FloatValue) : BitVec 8 := f.pattern.extractLsb' 23 8

/-- `m = b[22:0]`. -/
def floatFraction (f : FloatValue) : BitVec 23 := f.pattern.extractLsb' 0 23

/-- The payload of a NaN, `m[21:0]`. -/
def nanPayload (f : FloatValue) : BitVec 22 := f.pattern.extractLsb' 0 22

/-- The class column of R55. -/
def floatClass (f : FloatValue) : FloatClass :=
  if floatExponent f = 0#8 then
    if floatFraction f = 0#23 then .zero else .subnormal
  else if floatExponent f = 255#8 then
    if floatFraction f = 0#23 then .infinity
    else if (floatFraction f).getLsbD 22 then .quietNaN
    else .signallingNaN
  else .normal

/-- The magnitude of a finite value in units of `2^(-149)`, an exact integer. -/
def floatUnits (f : FloatValue) : Nat :=
  if floatExponent f = 0#8 then (floatFraction f).toNat
  else (2 ^ 23 + (floatFraction f).toNat) * 2 ^ ((floatExponent f).toNat - 1)

/-- The value column of R55; infinities and NaNs denote no number. `+0` and `-0` denote the same number and stay different
FloatValues (R18). -/
def floatNumber (f : FloatValue) : Option Rat :=
  if floatExponent f = 255#8 then none
  else
    let units : Int := if floatSign f then -(floatUnits f : Int) else (floatUnits f : Int)
    some (mkRat units (2 ^ 149))

end Sys2Proof.Machine
end

