-- ==== Sys2Proof/Machine/HostContract.lean ====
section
/-! DEFINITION. The caller's side of the boundary contract (R100 to R105): the names of the host's lane channels, the host's
own latches, the requests its two events make, and what it writes of the responses. None of it is state of the block (R17) and no meaning reads it. -/

namespace Sys2Proof.Machine

/-- The host's four lane channels (R103). The digits count bytes from 1 at the least significant end: they are no lane
indices. -/
inductive HostChannel where
  | msb
  | byte3
  | byte2
  | lsb
deriving DecidableEq, Repr

/-- The lane a channel carries (R103). -/
def HostChannel.lane : HostChannel → Fin 4
  | .msb => 0
  | .byte3 => 1
  | .byte2 => 2
  | .lsb => 3

/-- The host's latches after one channel changed; the other three keep what they held (R100). -/
def HostChannel.latch (ch : HostChannel) (value : Byte) (lanes : ByteLanes) : ByteLanes :=
  match ch with
  | .msb => { lanes with lane0 := value }
  | .byte3 => { lanes with lane1 := value }
  | .byte2 => { lanes with lane2 := value }
  | .lsb => { lanes with lane3 := value }

/-- The integer-valued channels of a host, by variant (R104): one 32-bit channel, or the latches of four 8-bit channels. -/
inductive HostChannels where
  | single (word : BitPattern)
  | four (latches : ByteLanes)
deriving DecidableEq, Repr

/-- What an "I/O signal changed" event carries (R102): "one or more integer byte values", each with its lane channel and in the
order they came, or a single 32-bit integer. -/
inductive HostSignal where
  | lanes (changes : List (HostChannel × Byte))
  | word (value : BitPattern)
deriving DecidableEq, Repr

/-- What a host holds of its own (R101, R102): its integer-valued channels and its host-managed floating-point output
property. -/
structure HostSide where
  channels : HostChannels
  output : FloatValue
deriving DecidableEq, Repr

/-- The host's latches after several channels changed, one after the other (R100, R102). Where a channel is named more than
once, its last byte stands (DESIGN CHOICE, log entry 18). -/
def latchAll (changes : List (HostChannel × Byte)) (lanes : ByteLanes) : ByteLanes :=
  match changes with
  | [] => lanes
  | (channel, value) :: rest => latchAll rest (channel.latch value lanes)

/-- The host accumulates what its signal brings (R102): the relevant lanes, or the single 32-bit integer. A host has no channel
for a signal of the other variant; its channels stay (DESIGN CHOICE, log entry 18). -/
def HostChannels.accumulate (channels : HostChannels) (signal : HostSignal) : HostChannels :=
  match channels, signal with
  | .single _, .word value => .single value
  | .four latches, .lanes changes => .four (latchAll changes latches)
  | .single word, .lanes _ => .single word
  | .four latches, .word _ => .four latches

/-- The request of a "property changed" event (R101). R104 lets the four-channel host issue `floatToLanes` "or the primitives
in sequence"; the host here always issues the composition, in one transaction (DESIGN CHOICE, log entry 20). -/
def HostChannels.propertyChanged (channels : HostChannels) (f : FloatValue) : Instr :=
  match channels with
  | .single _ => .floatToBits f
  | .four _ => .floatToLanes f

/-- The request of an "I/O signal changed" event once the host's channels are current (R100, R102). R104 lets the four-channel
host issue `lanesToFloat` "or the primitives in sequence"; the host here always issues the composition, in one transaction
(DESIGN CHOICE, log entry 20). WHEN a host counts its lanes as current is its own policy (N15). -/
def HostChannels.signalChanged (channels : HostChannels) : Instr :=
  match channels with
  | .single word => .bitsToFloat word
  | .four latches => .lanesToFloat latches

/-- The host writes the result of a "property changed" request into its channels (R101). A response of another kind is none
that this request gets; the channels stay (DESIGN CHOICE, log entry 18). -/
def HostChannels.store (channels : HostChannels) (r : Response) : HostChannels :=
  match channels, r with
  | .single _, .bits word => .single word
  | .four _, .lanes latches => .four latches
  | channels, _ => channels

/-- The host accumulates a signal; its output property is not written yet (R102). -/
def HostSide.accumulate (host : HostSide) (signal : HostSignal) : HostSide :=
  { host with channels := host.channels.accumulate signal }

/-- The host writes the result of a "property changed" request into its integer-valued output channels (R101). -/
def HostSide.writeChannels (host : HostSide) (r : Response) : HostSide :=
  { host with channels := host.channels.store r }

/-- The host writes the result of an "I/O signal changed" request into its floating-point output property (R102). A response
of another kind is none that this request gets; the property stays (DESIGN CHOICE, log entry 18). -/
def HostSide.writeOutput (host : HostSide) (r : Response) : HostSide :=
  match r with
  | .float f => { host with output := f }
  | .bits _ => host
  | .lanes _ => host
  | .hex _ => host
  | .malformedHexInput => host

end Sys2Proof.Machine
end

