-- ==== Sys2Proof/Safety.lean ====
section
/-! DEFINITION. What counts as a safe run, and the terms in which claims speak of the machine. -/

namespace Sys2Proof.Safety

open Sys2Proof.Machine

/-! ### The host's duties, and the invariant of a run -/

/-- A request the host may present (R92, the host contract of `70_reset_and_hazards.md`): a bundle of this hardware with no
reserved select code, whose `hex_len` is at most `HEX_IN_MAX` where the operation reads it. -/
def lawful (r : Request) : Bool :=
  match Operation.ofSelect r.op with
  | none => false
  | some o => r.wellFormed && (o.format != .S || decide (r.hexLen ≤ Config.hexInMax))

/-- A run whose pending requests the host may all present. -/
def lawfulRun (s : State) : Bool := s.pending.all lawful

/-- An uppercase hexadecimal digit (R45). -/
def isUpperHexDigit (c : CharCode) : Bool :=
  (decide (0x30#8 ≤ c) && decide (c ≤ 0x39#8)) || (decide (0x41#8 ≤ c) && decide (c ≤ 0x46#8))

/-- A HexString in its rendered form (R21 a): `0x` and eight uppercase hexadecimal digits. -/
def isRendering (h : HexString) : Bool :=
  h[0] == 0x30#8 && h[1] == 0x78#8 && (h.toList.drop 2).all isUpperHexDigit

/-- A response this hardware can give: every string it delivers is in the rendered form. -/
def legalResponse : Response → Bool
  | .hex h => isRendering h
  | .float _ => true
  | .bits _ => true
  | .lanes _ => true
  | .malformedHexInput => true

/-- The invariant of a run: what stands on the ports has the ports' widths, and every response is one this hardware can
give. -/
def RunInvariant (s : State) : Prop :=
  (∀ r ∈ s.pending, r.wellFormed = true) ∧ ∀ r ∈ s.responses, legalResponse r = true

/-- A safe run of `k` transactions: none is refused. -/
def SafeRun (k : Nat) (s : State) : Prop := ∃ t, Sys2Proof.core.run k s = Host.Outcome.next t

/-! ### Reading a hexadecimal numeral, told apart from the loop of `parseHex` -/

/-- The number of a hex character by the table of R43; none for every other code. -/
def digitNumber (c : CharCode) : Option Nat :=
  if 0x30 ≤ c.toNat ∧ c.toNat ≤ 0x39 then some (c.toNat - 0x30)
  else if 0x41 ≤ c.toNat ∧ c.toNat ≤ 0x46 then some (c.toNat - 0x37)
  else if 0x61 ≤ c.toNat ∧ c.toNat ≤ 0x66 then some (c.toNat - 0x57)
  else none

/-- The characters after the optional prefix (R66), by index. -/
def digitsOf (str : HexInput) : HexInput :=
  if str[0]? = some 0x30#8 ∧ (str[1]? = some 0x78#8 ∨ str[1]? = some 0x58#8) then str.drop 2 else str

/-- The number a row of digits spells in base 16, each digit with the weight of its place, the leftmost the greatest
(R28). -/
def numeral : List Nat → Nat
  | [] => 0
  | d :: rest => d * 16 ^ rest.length + numeral rest

/-- `str` has the digits `ds`: after the optional prefix every character is a hex character, and there is at least one
(R64). -/
def Spells (str : HexInput) (ds : List Nat) : Prop :=
  ds ≠ [] ∧ (digitsOf str).map digitNumber = ds.map some

/-- The three causes of MalformedHexInput (R81). -/
def Malformed (str : HexInput) : Prop :=
  digitsOf str = [] ∨ (∃ c ∈ digitsOf str, digitNumber c = none) ∨
    ∃ ds, Spells str ds ∧ 2 ^ 32 ≤ numeral ds

/-- The uppercase form of a hex character; every other code stays (R65). -/
def upcase (c : CharCode) : CharCode := if 0x61#8 ≤ c ∧ c ≤ 0x66#8 then c - 0x20#8 else c

/-! ### States written short -/

/-- `s` with one more response. -/
def answered (s : State) (r : Response) : State := { s with responses := s.responses ++ [r] }

end Sys2Proof.Safety
end

