-- ==== Sys2Proof/Certificates/Slice0/Obligations.lean ====
section
/-! DEFINITION. The statements about the model, for the provers. `answered s r` is `s` with the response `r` added and
nothing else changed, so an equation `exec i s = .next (answered s r)` says what the instruction does, that it completes, and
its whole frame: there is no register, flag, memory or other state to leave unchanged (R10 to R17). -/

open Sys2Proof Sys2Proof.Machine Sys2Proof.Safety

/-! ### One instruction at a time: encoding, operand ports, result, `err` (R50 to R76) -/

/-- R50. -/
def Obligations.FloatToBitsKeepsEveryBit : Prop :=
  (∀ r : Request, r.op = 0x0#4 → decode r = .ok (.floatToBits r.fIn)) ∧
  ∀ (f : FloatValue) (s : State), ∃ b : BitPattern,
    exec (.floatToBits f) s = .next (answered s (.bits b)) ∧
    (∀ i < 32, b.getLsbD i = f.pattern.getLsbD i) ∧ (Response.bits b).err = 0#1

/-- R51. -/
def Obligations.BitsToFloatKeepsEveryBit : Prop :=
  (∀ r : Request, r.op = 0x1#4 → decode r = .ok (.bitsToFloat r.bitsIn)) ∧
  ∀ (b : BitPattern) (s : State), ∃ f : FloatValue,
    exec (.bitsToFloat b) s = .next (answered s (.float f)) ∧
    (∀ i < 32, f.pattern.getLsbD i = b.getLsbD i) ∧ (Response.float f).err = 0#1

/-- R56: the four bytes of the word, the most significant in lane 0. -/
def Obligations.DecomposeToLanesSplitsBigEndian : Prop :=
  (∀ r : Request, r.op = 0x2#4 → decode r = .ok (.decomposeToLanes r.bitsIn)) ∧
  ∀ (b : BitPattern) (s : State), ∃ lanes : ByteLanes,
    exec (.decomposeToLanes b) s = .next (answered s (.lanes lanes)) ∧
    lanes.lane0.toNat = b.toNat / 2 ^ 24 ∧
    lanes.lane1.toNat = b.toNat / 2 ^ 16 % 2 ^ 8 ∧
    lanes.lane2.toNat = b.toNat / 2 ^ 8 % 2 ^ 8 ∧
    lanes.lane3.toNat = b.toNat % 2 ^ 8 ∧
    (Response.lanes lanes).err = 0#1

/-- R57, R59: the concatenation of the four bytes, each unsigned. -/
def Obligations.ComposeFromLanesJoinsBigEndian : Prop :=
  (∀ r : Request, r.op = 0x3#4 → decode r = .ok (.composeFromLanes r.laneIn)) ∧
  ∀ (lanes : ByteLanes) (s : State), ∃ b : BitPattern,
    exec (.composeFromLanes lanes) s = .next (answered s (.bits b)) ∧
    b = lanes.lane0 ++ lanes.lane1 ++ lanes.lane2 ++ lanes.lane3 ∧
    b.toNat = lanes.lane0.toNat * 2 ^ 24 + lanes.lane1.toNat * 2 ^ 16 + lanes.lane2.toNat * 2 ^ 8 + lanes.lane3.toNat ∧
    (Response.bits b).err = 0#1

/-- R61, R62: `0x`, then the eight base-16 digits of the value, zero-padded, the most significant first, in uppercase. -/
def Obligations.RenderHexWritesEightUppercaseDigits : Prop :=
  (∀ r : Request, r.op = 0x4#4 → decode r = .ok (.renderHex r.bitsIn)) ∧
  ∀ (b : BitPattern) (s : State), ∃ h : HexString,
    exec (.renderHex b) s = .next (answered s (.hex h)) ∧
    h[0] = 0x30#8 ∧ h[1] = 0x78#8 ∧
    (∀ (k : Nat) (_ : k < 8), h[2 + k].toNat =
      (let n := b.toNat / 16 ^ (7 - k) % 16; if n ≤ 9 then 0x30 + n else 0x37 + n)) ∧
    (Response.hex h).err = 0#1

/-- R64: what `parseHex` reads and answers, success and failure, and its second form in 32-bit hardware arithmetic. That the
two forms agree (the two clauses on `parseHexInHardware`) is the spec's own inference: R64 marks it "[derived: from the
pseudocode of this rule]". -/
def Obligations.ParseHexReadsTheNumeralOrFails : Prop :=
  (∀ r : Request, r.op = 0x5#4 → r.wellFormed = true → r.hexLen ≤ Config.hexInMax →
    decode r = .ok (.parseHex (r.hexIn.take r.hexLen))) ∧
  ∀ (str : HexInput) (s : State), str.length ≤ Config.hexInMax →
    (∀ ds : List Nat, Spells str ds → numeral ds < 2 ^ 32 →
      exec (.parseHex str) s = .next (answered s (.bits (BitVec.ofNat 32 (numeral ds)))) ∧
      (Response.bits (BitVec.ofNat 32 (numeral ds))).err = 0#1) ∧
    (Malformed str →
      exec (.parseHex str) s = .next (answered s .malformedHexInput) ∧ Response.malformedHexInput.err = 1#1) ∧
    (∀ b : BitPattern, parseHexInHardware str = some b → exec (.parseHex str) s = .next (answered s (.bits b))) ∧
    (parseHexInHardware str = none → exec (.parseHex str) s = .next (answered s .malformedHexInput))

/-- R81: the error, and no result, in exactly the three cases. -/
def Obligations.ErrorIsRaisedInExactlyThreeCases : Prop :=
  ∀ (str : HexInput) (s : State), str.length ≤ Config.hexInMax →
    (exec (.parseHex str) s = .next (answered s .malformedHexInput) ↔ Malformed str) ∧
    (exec (.hexToFloat str) s = .next (answered s .malformedHexInput) ↔ Malformed str)

/-- R73. -/
def Obligations.FloatToLanesSplitsThePattern : Prop :=
  (∀ r : Request, r.op = 0x6#4 → decode r = .ok (.floatToLanes r.fIn)) ∧
  ∀ (f : FloatValue) (s : State), ∃ lanes : ByteLanes,
    exec (.floatToLanes f) s = .next (answered s (.lanes lanes)) ∧
    f.pattern = lanes.lane0 ++ lanes.lane1 ++ lanes.lane2 ++ lanes.lane3 ∧ (Response.lanes lanes).err = 0#1

/-- R74. -/
def Obligations.LanesToFloatJoinsThePattern : Prop :=
  (∀ r : Request, r.op = 0x7#4 → decode r = .ok (.lanesToFloat r.laneIn)) ∧
  ∀ (lanes : ByteLanes) (s : State), ∃ f : FloatValue,
    exec (.lanesToFloat lanes) s = .next (answered s (.float f)) ∧
    f.pattern = lanes.lane0 ++ lanes.lane1 ++ lanes.lane2 ++ lanes.lane3 ∧ (Response.float f).err = 0#1

/-- R75. -/
def Obligations.FloatToHexRendersThePattern : Prop :=
  (∀ r : Request, r.op = 0x8#4 → decode r = .ok (.floatToHex r.fIn)) ∧
  ∀ (f : FloatValue) (s : State), ∃ h : HexString,
    exec (.floatToHex f) s = .next (answered s (.hex h)) ∧
    h[0] = 0x30#8 ∧ h[1] = 0x78#8 ∧
    (∀ (k : Nat) (_ : k < 8), h[2 + k].toNat =
      (let n := f.pattern.toNat / 16 ^ (7 - k) % 16; if n ≤ 9 then 0x30 + n else 0x37 + n)) ∧
    (Response.hex h).err = 0#1

/-- R76: the string is the numeral of the bit pattern; the error exactly when `parseHex` raises it. -/
def Obligations.HexToFloatReadsThePatternOrFails : Prop :=
  (∀ r : Request, r.op = 0x9#4 → r.wellFormed = true → r.hexLen ≤ Config.hexInMax →
    decode r = .ok (.hexToFloat (r.hexIn.take r.hexLen))) ∧
  ∀ (str : HexInput) (s : State), str.length ≤ Config.hexInMax →
    (∀ ds : List Nat, Spells str ds → numeral ds < 2 ^ 32 →
      exec (.hexToFloat str) s = .next (answered s (.float ⟨BitVec.ofNat 32 (numeral ds)⟩)) ∧
      (Response.float ⟨BitVec.ofNat 32 (numeral ds)⟩).err = 0#1) ∧
    (exec (.hexToFloat str) s = .next (answered s .malformedHexInput) ↔
      exec (.parseHex str) s = .next (answered s .malformedHexInput)) ∧
    (Malformed str → exec (.hexToFloat str) s = .next (answered s .malformedHexInput))

/-! ### Laws of the operations -/

/-- R22 and its converse. The converse (the join of a split is the word) is the spec's own inference: R22 says of it that it "is
not stated by doc00 and also holds [derived: from `41_lanes.md` rules R56 and R57]". -/
def Obligations.LaneRoundTripBothWays : Prop :=
  ∀ s : State,
    (∀ lanes : ByteLanes, ∃ b : BitPattern, exec (.composeFromLanes lanes) s = .next (answered s (.bits b)) ∧
      exec (.decomposeToLanes b) s = .next (answered s (.lanes lanes))) ∧
    ∀ b : BitPattern, ∃ lanes : ByteLanes, exec (.decomposeToLanes b) s = .next (answered s (.lanes lanes)) ∧
      exec (.composeFromLanes lanes) s = .next (answered s (.bits b))

/-- R23, both ways. -/
def Obligations.BitCastRoundTripBothWays : Prop :=
  ∀ s : State,
    (∀ f : FloatValue, ∃ b : BitPattern, exec (.floatToBits f) s = .next (answered s (.bits b)) ∧
      exec (.bitsToFloat b) s = .next (answered s (.float f))) ∧
    ∀ b : BitPattern, ∃ f : FloatValue, exec (.bitsToFloat b) s = .next (answered s (.float f)) ∧
      exec (.floatToBits f) s = .next (answered s (.bits b))

/-- R24: parsing a rendering gives the pattern back, for every pattern, without error; the converse does not hold in general:
`"3f8"` is parsed to a pattern whose rendering is another string. The second clause is the spec's own inference: R24 marks it
"[derived: from `42_hex.md` rules R61 and R64]". -/
def Obligations.ParseOfRenderingIsThePattern : Prop :=
  (∀ (b : BitPattern) (s : State), ∃ h : HexString,
    exec (.renderHex b) s = .next (answered s (.hex h)) ∧
    exec (.parseHex h.toList) s = .next (answered s (.bits b))) ∧
  ∃ (str : HexInput) (b : BitPattern) (h : HexString), str = [0x33#8, 0x66#8, 0x38#8] ∧ b = 0x000003F8#32 ∧
    h = #v[0x30#8, 0x78#8, 0x30#8, 0x30#8, 0x30#8, 0x30#8, 0x30#8, 0x33#8, 0x46#8, 0x38#8] ∧
    ∀ s : State, exec (.parseHex str) s = .next (answered s (.bits b)) ∧
      exec (.renderHex b) s = .next (answered s (.hex h)) ∧ h.toList ≠ str

/-- The consequences R77 states: a float survives the way through lanes and through text, and lanes the way through a
float. -/
def Obligations.FloatSurvivesLanesAndText : Prop :=
  ∀ s : State,
    (∀ f : FloatValue, ∃ lanes : ByteLanes, exec (.floatToLanes f) s = .next (answered s (.lanes lanes)) ∧
      exec (.lanesToFloat lanes) s = .next (answered s (.float f))) ∧
    (∀ lanes : ByteLanes, ∃ f : FloatValue, exec (.lanesToFloat lanes) s = .next (answered s (.float f)) ∧
      exec (.floatToLanes f) s = .next (answered s (.lanes lanes))) ∧
    ∀ f : FloatValue, ∃ h : HexString, exec (.floatToHex f) s = .next (answered s (.hex h)) ∧
      exec (.hexToFloat h.toList) s = .next (answered s (.float f))

/-- R77, R78: the response of a composition is what the two-transaction expansion gives, result and error. The consequences
that R77 derives from it are `FloatSurvivesLanesAndText`. -/
def Obligations.CompositionEqualsItsExpansion : Prop :=
  ∀ s : State,
    (∀ (f : FloatValue) (b : BitPattern) (r : Response), exec (.floatToBits f) s = .next (answered s (.bits b)) →
      (exec (.decomposeToLanes b) s = .next (answered s r) ↔ exec (.floatToLanes f) s = .next (answered s r)) ∧
      (exec (.renderHex b) s = .next (answered s r) ↔ exec (.floatToHex f) s = .next (answered s r))) ∧
    (∀ (lanes : ByteLanes) (b : BitPattern) (r : Response),
      exec (.composeFromLanes lanes) s = .next (answered s (.bits b)) →
      (exec (.bitsToFloat b) s = .next (answered s r) ↔ exec (.lanesToFloat lanes) s = .next (answered s r))) ∧
    (∀ (str : HexInput) (b : BitPattern) (r : Response), exec (.parseHex str) s = .next (answered s (.bits b)) →
      (exec (.bitsToFloat b) s = .next (answered s r) ↔ exec (.hexToFloat str) s = .next (answered s r))) ∧
    ∀ str : HexInput, exec (.parseHex str) s = .next (answered s .malformedHexInput) →
      exec (.hexToFloat str) s = .next (answered s .malformedHexInput)

/-- R65: every string means what its uppercase form means. -/
def Obligations.ParseIgnoresTheCaseOfDigits : Prop :=
  ∀ (str : HexInput) (s : State), exec (.parseHex (str.map upcase)) s = exec (.parseHex str) s

/-- R66: the prefix counts at the start only, once only, and adds nothing to the value. -/
def Obligations.PrefixIsSkippedOnceAtTheStart : Prop :=
  ∀ (x : CharCode) (rest : HexInput) (s : State), x = 0x78#8 ∨ x = 0x58#8 →
    -- skipped in front of digits that do not begin with a prefix of their own
    (digitsOf rest = rest → rest.length + 2 ≤ Config.hexInMax →
      exec (.parseHex (0x30#8 :: x :: rest)) s = exec (.parseHex rest) s) ∧
    -- a second prefix, a letter without its zero, and a prefix that is not at the start fail
    (rest.length + 4 ≤ Config.hexInMax →
      exec (.parseHex (0x30#8 :: x :: 0x30#8 :: x :: rest)) s = .next (answered s .malformedHexInput) ∧
      exec (.parseHex (x :: rest)) s = .next (answered s .malformedHexInput) ∧
      exec (.parseHex (0x30#8 :: 0x30#8 :: x :: rest)) s = .next (answered s .malformedHexInput)) ∧
    -- a lone zero has no prefix
    exec (.parseHex [0x30#8]) s = .next (answered s (.bits 0x00000000#32)) ∧
    -- the case of the prefix letter and the case of the digits are independent
    exec (.parseHex [0x30#8, x, 0x66#8, 0x66#8]) s = .next (answered s (.bits 0x000000FF#32)) ∧
    exec (.parseHex [0x30#8, x, 0x46#8, 0x46#8]) s = .next (answered s (.bits 0x000000FF#32))

/-- R68: one non-hex character after the optional prefix fails, wherever it stands and whatever the others are; the
spec's own inference, which R68 marks "[derived: from `30_encoding.md rule R43`]". -/
def Obligations.OneNonHexCharacterFails : Prop :=
  ∀ (str before after : HexInput) (c : CharCode) (s : State), str.length ≤ Config.hexInMax →
    digitsOf str = before ++ c :: after → digitNumber c = none →
    exec (.parseHex str) s = .next (answered s .malformedHexInput) ∧
    exec (.hexToFloat str) s = .next (answered s .malformedHexInput)

/-- R70: any number of digits is read as a numeral, the test is on the value, and leading zeros do not change it. -/
def Obligations.NumberOfDigitsIsFree : Prop :=
  (∀ (str : HexInput) (ds : List Nat) (s : State), str.length ≤ Config.hexInMax → Spells str ds →
    (numeral ds < 2 ^ 32 ↔ ∃ b : BitPattern, exec (.parseHex str) s = .next (answered s (.bits b)) ∧
      b.toNat = numeral ds)) ∧
  ∀ (n : Nat) (str : HexInput) (s : State), str ≠ [] → (∀ c ∈ str, (digitNumber c).isSome) →
    n + str.length ≤ Config.hexInMax →
    exec (.parseHex (List.replicate n 0x30#8 ++ str)) s = exec (.parseHex str) s

/-- R69, R72: up to eight digits always succeed, top bit set or not; a value of `2^32` or more, as nine or more digits with a
nonzero first digit spell, always fails and is not wrapped. -/
def Obligations.EightDigitsFitAndGreaterValuesFail : Prop :=
  ∀ (str : HexInput) (ds : List Nat) (s : State), str.length ≤ Config.hexInMax → Spells str ds →
    (ds.length ≤ 8 → ∃ b : BitPattern, exec (.parseHex str) s = .next (answered s (.bits b)) ∧ b.toNat = numeral ds) ∧
    (2 ^ 32 ≤ numeral ds → exec (.parseHex str) s = .next (answered s .malformedHexInput)) ∧
    (8 < ds.length → ds.head? ≠ some 0 → exec (.parseHex str) s = .next (answered s .malformedHexInput))

/-- R28, R62: the digit order is the lane order; characters `2 + 2k` and `3 + 2k` are the two nibbles of lane `k`. -/
def Obligations.HexDigitOrderIsLaneOrder : Prop :=
  ∀ (b : BitPattern) (s : State), ∃ (lanes : ByteLanes) (h : HexString),
    exec (.decomposeToLanes b) s = .next (answered s (.lanes lanes)) ∧
    exec (.renderHex b) s = .next (answered s (.hex h)) ∧
    ∀ (k : Nat) (hk : k < 4),
      h[2 + 2 * k] = hexChar ((lanes.get ⟨k, hk⟩).extractLsb' 4 4) ∧
      h[3 + 2 * k] = hexChar ((lanes.get ⟨k, hk⟩).extractLsb' 0 4)

/-- R25: lane `k` holds the bits `31 - 8k` to `24 - 8k` in their order, out of the splitter and into the joiner. -/
def Obligations.LaneBitsAreTheWordsBits : Prop :=
  (∀ (b : BitPattern) (s : State), ∃ lanes : ByteLanes,
    exec (.decomposeToLanes b) s = .next (answered s (.lanes lanes)) ∧
    ∀ (k : Fin 4) (j : Nat), j < 8 → (lanes.get k).getLsbD j = b.getLsbD (24 - 8 * k.val + j)) ∧
  ∀ (lanes : ByteLanes) (s : State), ∃ b : BitPattern,
    exec (.composeFromLanes lanes) s = .next (answered s (.bits b)) ∧
    ∀ (k : Fin 4) (j : Nat), j < 8 → (lanes.get k).getLsbD j = b.getLsbD (24 - 8 * k.val + j)

/-! ### Decoding and encoding -/

/-- R37 to R42, all operations: presenting an instruction and reading the ports gives it back, and the bundle is one of this
hardware. -/
def Obligations.DecodeOfEncodeIsTheInstruction : Prop :=
  ∀ i : Instr, i.wellFormed = true → decode (encode i) = .ok i ∧ (encode i).wellFormed = true

/-- What a bundle of this hardware decodes to is presentable, has the operation its `op` selects, and is what its own
encoding decodes to. -/
def Obligations.DecodedInstructionIsPresentable : Prop :=
  ∀ (r : Request) (i : Instr), r.wellFormed = true → decode r = .ok i →
    i.wellFormed = true ∧ r.op = i.operation.select ∧ (encode i).op = r.op ∧ decode (encode i) = .ok i

/-- R39: every row of the operation map: code, operand ports read, result ports driven, whether `err` can be set. -/
def Obligations.OperationMapIsAsTabulated : Prop :=
  (∀ r : Request, r.wellFormed = true → r.hexLen ≤ Config.hexInMax → ∀ i : Instr, decode r = .ok i ↔
    (r.op = 0x0#4 ∧ i = .floatToBits r.fIn) ∨ (r.op = 0x1#4 ∧ i = .bitsToFloat r.bitsIn) ∨
    (r.op = 0x2#4 ∧ i = .decomposeToLanes r.bitsIn) ∨ (r.op = 0x3#4 ∧ i = .composeFromLanes r.laneIn) ∨
    (r.op = 0x4#4 ∧ i = .renderHex r.bitsIn) ∨ (r.op = 0x5#4 ∧ i = .parseHex (r.hexIn.take r.hexLen)) ∨
    (r.op = 0x6#4 ∧ i = .floatToLanes r.fIn) ∨ (r.op = 0x7#4 ∧ i = .lanesToFloat r.laneIn) ∨
    (r.op = 0x8#4 ∧ i = .floatToHex r.fIn) ∨ (r.op = 0x9#4 ∧ i = .hexToFloat (r.hexIn.take r.hexLen))) ∧
  ∀ (i : Instr) (s : State), i.wellFormed = true → ∃ resp : Response, exec i s = .next (answered s resp) ∧
    (resp.port = some i.operation.drives ∧ resp.err = 0#1 ∨
      i.operation.canSetErr = true ∧ resp = .malformedHexInput)

/-- R82: the two operations that can raise the error, and no other. -/
def Obligations.OnlyTheTwoParsersRaiseTheError : Prop :=
  ∀ o : Operation, (o = .parseHex ∨ o = .hexToFloat) ↔
    ∃ (i : Instr) (s : State), i.operation = o ∧ exec i s = .next (answered s .malformedHexInput)

/-- R41: what stands on the operand ports an operation does not read cannot change the outcome. -/
def Obligations.UnreadPortsCannotMatter : Prop :=
  ∀ (o : Operation) (r r' : Request) (rest : List Request) (done : List Response),
    r.op = o.select → r'.op = o.select → r.wellFormed = true → r'.wellFormed = true →
    (match o.format with
      | .F => r.fIn = r'.fIn
      | .B => r.bitsIn = r'.bitsIn
      | .L => r.laneIn = r'.laneIn
      | .S => r.hexLen = r'.hexLen ∧ ∀ i < r.hexLen, r.hexIn[i]? = r'.hexIn[i]?) →
    step { pending := r :: rest, responses := done } = step { pending := r' :: rest, responses := done }

/-- R42: the string operand is the first `hex_len` slots; no terminator, later slots ignored; a greater `hex_len` is refused
by the two operations that read it. -/
def Obligations.StringOperandIsTheFirstSlots : Prop :=
  (∀ r : Request, r.wellFormed = true → r.hexLen ≤ Config.hexInMax →
    ∃ str : HexInput, str.length = r.hexLen ∧ (∀ i < r.hexLen, str[i]? = r.hexIn[i]?) ∧
      (r.op = 0x5#4 → decode r = .ok (.parseHex str)) ∧ (r.op = 0x9#4 → decode r = .ok (.hexToFloat str))) ∧
  ∀ r : Request, Config.hexInMax < r.hexLen → r.op = 0x5#4 ∨ r.op = 0x9#4 →
    decode r = .error (.hexLenBeyondSlots r.hexLen)

/-- A few select codes of R39 as words of the operation table. -/
def Obligations.TableWordsDecode : Prop :=
  decodeTableWord 8 0x00 = some (.floatToBits ⟨0#32⟩) ∧ decodeTableWord 8 0x03 = some (.composeFromLanes ⟨0, 0, 0, 0⟩) ∧
  decodeTableWord 8 0x05 = some (.parseHex []) ∧ decodeTableWord 8 0x08 = some (.floatToHex ⟨0#32⟩) ∧
  decodeTableWord 8 0x0A = none

/-! ### The step, refusals, and runs -/

/-- A step presents the next request and is `exec` of the instruction it decodes to, with the request taken off the host's
list; with a table word put in front it runs that word's instruction. -/
def Obligations.StepRunsTheDecodedInstruction : Prop :=
  (∀ (r : Request) (i : Instr) (rest : List Request) (done : List Response), decode r = .ok i →
    step { pending := r :: rest, responses := done } = exec i { pending := rest, responses := done }) ∧
  ∀ (s : State) (nbits w : Nat) (i : Instr), decodeTableWord nbits w = some i →
    step (s.withFetchWord nbits w) = exec i s

/-- The model's own convention (log entry 2): with no request pending nothing happens and no response appears. -/
def Obligations.StepWithNoRequestChangesNothing : Prop :=
  ∀ s : State, s.pending = [] → step s = .next s

/-- R40: a reserved select code is refused whatever the operands: no response, and not the error. -/
def Obligations.ReservedSelectIsRefused : Prop :=
  ∀ (r : Request) (rest : List Request) (done : List Response),
    (10 ≤ r.op.toNat ↔ step { pending := r :: rest, responses := done } = .refused (.reservedSelect r.op))

/-- R92: the three kinds of request that are refused, and that nothing else a host can put on the ports is. -/
def Obligations.ExactlyTheMeaninglessIsRefused : Prop :=
  (∀ (r : Request) (rest : List Request) (done : List Response), r.wellFormed = true →
    ((∃ why, step { pending := r :: rest, responses := done } = .refused why) ↔
      10 ≤ r.op.toNat ∨ ((r.op = 0x5#4 ∨ r.op = 0x9#4) ∧ Config.hexInMax < r.hexLen))) ∧
  ∀ (i : Instr) (s : State), (∃ why, exec i s = .refused why) ↔
    ∃ str : HexInput, (i = .parseHex str ∨ i = .hexToFloat str) ∧ Config.hexInMax < str.length

/-- R33: no operation has a side effect: it gives one response, the same in every state, and leaves the requests and all
earlier responses as they were; a request repeated any number of times gives the same response each time. -/
def Obligations.TransactionsHaveNoSideEffect : Prop :=
  (∀ (i : Instr) (s t : State), exec i s = .next t →
    ∃ resp : Response, t = answered s resp ∧ ∀ u : State, exec i u = .next (answered u resp)) ∧
  ∀ (r : Request) (n : Nat), lawful r = true → ∃ resp : Response, ∀ done : List Response,
    core.run n { pending := List.replicate n r, responses := done } =
      .next { pending := [], responses := done ++ List.replicate n resp }

/-- R88, R13: after a failing transaction the next one is answered by its own rule, as if the first had not happened. -/
def Obligations.ErrorLeavesNothingBehind : Prop :=
  ∀ (i : Instr) (s : State) (str : HexInput) (resp : Response), str.length ≤ Config.hexInMax → Malformed str →
    exec i s = .next (answered s resp) → ∃ t : State, exec (.parseHex str) s = .next t ∧
      exec (.hexToFloat str) s = .next t ∧ t.pending = s.pending ∧ exec i t = .next (answered t resp)

/-- R94: a run whose requests the host may present never stops before its end: every request gets its response. The spec's own
inference: R94 is marked "[derived: from `42_hex.md rule R64` and `20_memory.md rule R35`]". -/
def Obligations.LawfulRunAnswersEveryRequest : Prop :=
  ∀ s : State, lawfulRun s = true → ∃ t : State, core.run s.pending.length s = .next t ∧ t.pending = [] ∧
    t.responses.length = s.responses.length + s.pending.length ∧ s.responses <+: t.responses ∧
    ∀ k ≤ s.pending.length, SafeRun k s

/-- R35, R9: there is one function from a request to its response, the one the operations' own rules give, that answers every
run of lawful requests, whatever their order and whatever came before. -/
def Obligations.ResponsesAreAFunctionOfTheRequests : Prop :=
  ∃ answer : Request → Response,
    (∀ (r : Request) (i : Instr) (s : State), decode r = .ok i → exec i s = .next (answered s (answer r))) ∧
    ∀ (requests : List Request) (done : List Response), (∀ r ∈ requests, lawful r = true) →
      core.run requests.length { pending := requests, responses := done } =
        .next { pending := [], responses := done ++ requests.map answer }

/-- R91: each of any number of callers, however their requests are interleaved, gets the responses of a private instance. That
several callers are one interleaved sequence, with the callers as labels outside State, is the model's choice (DESIGN CHOICE,
log entry 17). -/
def Obligations.EachCallerSeesAPrivateInstance : Prop :=
  ∀ (calls : List (Nat × Request)) (t : State), (∀ call ∈ calls, lawful call.2 = true) →
    core.run calls.length { pending := calls.map Prod.snd, responses := [] } = .next t →
    ∀ caller : Nat,
      let own := calls.filter (fun call => call.1 == caller)
      core.run own.length { pending := own.map Prod.snd, responses := [] } =
        .next { pending := [],
                responses := ((calls.zip t.responses).filter (fun q => q.1.1 == caller)).map Prod.snd }

/-- R98: the first transaction after reset is answered like any other. The spec's own inference: R98 is marked "[derived: from
`10_state.md rule R10`]"; that the list of responses is empty after reset is the model's choice (DESIGN CHOICE, log entry 1). -/
def Obligations.FirstTransactionAfterResetIsLikeAnyOther : Prop :=
  ∀ (r : Request), lawful r = true → ∃ resp : Response,
    step { State.reset with pending := [r] } = .next { pending := [], responses := [resp] } ∧
    ∀ (rest : List Request) (done : List Response),
      step { pending := r :: rest, responses := done } = .next { pending := rest, responses := done ++ [resp] }

/-- The invariant of a run holds after reset (the two empty lists are the model's choice, log entry 1). -/
def Obligations.ResetMeetsTheInvariant : Prop := RunInvariant State.reset

/-- R21, R62: every step keeps the invariant: whatever string the block delivers is `0x` and eight uppercase digits. -/
def Obligations.EveryStepKeepsTheInvariant : Prop :=
  ∀ s t : State, RunInvariant s → step s = .next t → RunInvariant t

/-! ### Parameters, the numeric reading, and the host's side -/

/-- R6: the bound on `HEX_IN_MAX`, and `HEX_LEN_W` is the least width that expresses it. -/
def Obligations.HexLenWidthIsLeast : Prop :=
  10 ≤ Config.hexInMax ∧ Config.hexInMax < 2 ^ Config.hexLenW ∧
  ∀ w : Nat, Config.hexInMax < 2 ^ w → Config.hexLenW ≤ w

/-- R55: the numeric reading, which the spec takes from general knowledge (K1, K3; log entry 14). No operation uses it. -/
def Obligations.NumericReadingIsAsTabulated : Prop :=
  ∀ f : FloatValue,
    let sign : Rat := if f.pattern.getLsbD 31 then -1 else 1
    let e : Nat := f.pattern.toNat / 2 ^ 23 % 2 ^ 8
    let m : Nat := f.pattern.toNat % 2 ^ 23
    (e = 0 → m = 0 → floatClass f = .zero ∧ floatNumber f = some 0) ∧
    (e = 0 → m ≠ 0 → floatClass f = .subnormal ∧ floatNumber f = some (sign * m * (2 : Rat) ^ (-149 : Int))) ∧
    (1 ≤ e → e ≤ 254 → floatClass f = .normal ∧
      floatNumber f = some (sign * (1 + (m : Rat) / 2 ^ 23) * (2 : Rat) ^ ((e : Int) - 127))) ∧
    (e = 255 → m = 0 → floatClass f = .infinity ∧ floatNumber f = none) ∧
    (e = 255 → m ≠ 0 → floatClass f = (if f.pattern.getLsbD 22 then .quietNaN else .signallingNaN) ∧
      floatNumber f = none)

/-- R101, R102: on either host variant a value sent out on a "property changed" event and read back on an "I/O signal changed"
event arrives in the output property bit-identical, and reading it back leaves the channels as they were. That the four-channel
host issues the compositions is the model's choice (DESIGN CHOICE, log entries 18 and 20). -/
def Obligations.HostSendsAndReadsBackTheFloat : Prop :=
  ∀ (host : HostSide) (f : FloatValue) (s : State), ∃ sent read : Response,
    exec (host.channels.propertyChanged f) s = .next (answered s sent) ∧
    exec (host.writeChannels sent).channels.signalChanged s = .next (answered s read) ∧
    read = .float f ∧ (host.writeChannels sent).output = host.output ∧
    ((host.writeChannels sent).writeOutput read).output = f ∧
    ((host.writeChannels sent).writeOutput read).channels = (host.writeChannels sent).channels

/-- R102: on an "I/O signal changed" event the host accumulates what the signal brings and writes the answer to its request
into its output property: the float whose bits are, lane by lane, the last byte the signal brought for that lane or the byte the
host had latched, or the single 32-bit integer. That the four-channel host issues the composition, that the event makes its
request at once, and that the last of several bytes for one channel stands, are the model's choice (DESIGN CHOICE, log entries
18 and 20); R100 leaves to the host when its lanes are current. -/
def Obligations.SignalChangeWritesTheOutputProperty : Prop :=
  ∀ (output : FloatValue) (s : State),
    (∀ (lanes : ByteLanes) (changes : List (HostChannel × Byte)),
      let host := HostSide.accumulate { channels := .four lanes, output := output } (.lanes changes)
      ∃ read : Response, exec host.channels.signalChanged s = .next (answered s read) ∧ host.output = output ∧
        ∀ (channel : HostChannel) (j : Nat), j < 8 →
          (host.writeOutput read).output.pattern.getLsbD (24 - 8 * channel.lane.val + j) =
            ((changes.reverse.lookup channel).getD (lanes.get channel.lane)).getLsbD j) ∧
    ∀ word value : BitPattern,
      let host := HostSide.accumulate { channels := .single word, output := output } (.word value)
      ∃ read : Response, exec host.channels.signalChanged s = .next (answered s read) ∧ host.output = output ∧
        (host.writeOutput read).output.pattern = value

/-- R17 (a), R100, R103: a join uses exactly the four lanes presented; where one channel changed, its eight bits are the new
ones and the other 24 those of the lanes that did not change. -/
def Obligations.OneChannelChangesItsEightBits : Prop :=
  ∀ (channel : HostChannel) (value : Byte) (lanes : ByteLanes) (s : State), ∃ before after : BitPattern,
    exec (.composeFromLanes lanes) s = .next (answered s (.bits before)) ∧
    exec (.composeFromLanes (channel.latch value lanes)) s = .next (answered s (.bits after)) ∧
    ∀ i < 32, after.getLsbD i =
      if i / 8 = 3 - channel.lane.val then value.getLsbD (i % 8) else before.getLsbD i
end

