-- ==== Sys2Proof/Laws/Bits.lean ====
section
/-! SUPPORT. Lanes and nibbles of a word: as numbers, bit by bit, and put together again. -/

namespace Sys2Proof.Machine

theorem laneAt_toNat (b : BitPattern) (k : Nat) : (laneAt b k).toNat = b.toNat / 2 ^ (24 - 8 * k) % 2 ^ 8 := by
  simp [laneAt, BitVec.extractLsb'_toNat, Nat.shiftRight_eq_div_pow]

theorem nibbleAt_toNat (b : BitPattern) (k : Nat) : (nibbleAt b k).toNat = b.toNat / 2 ^ (28 - 4 * k) % 2 ^ 4 := by
  simp [nibbleAt, BitVec.extractLsb'_toNat, Nat.shiftRight_eq_div_pow]

theorem laneAt_getLsbD (b : BitPattern) (k j : Nat) (h : j < 8) :
    (laneAt b k).getLsbD j = b.getLsbD (24 - 8 * k + j) := by
  simp [laneAt, h]

/-- The joiner's formula is the concatenation of the four lanes (R57). -/
theorem composeFromLanes_eq_append (lanes : ByteLanes) :
    composeFromLanes lanes = lanes.lane0 ++ lanes.lane1 ++ lanes.lane2 ++ lanes.lane3 := by
  apply BitVec.eq_of_getLsbD_eq
  intro i hi
  simp only [composeFromLanes, BitVec.getLsbD_or, BitVec.getLsbD_shiftLeft, BitVec.getLsbD_append,
    BitVec.zeroExtend_eq_setWidth, BitVec.getLsbD_setWidth]
  rcases Nat.lt_or_ge i 8 with h | h
  · have h1 : i < 16 := by omega
    have h2 : i < 24 := by omega
    simp [h, h1, h2, hi]
  · rcases Nat.lt_or_ge i 16 with h1 | h1
    · have h2 : i < 24 := by omega
      have a : ¬ i < 8 := by omega
      have a' : i - 8 < 8 := by omega
      simp [h1, h2, hi, a, a', show i - 8 < 32 by omega, BitVec.getLsbD_of_ge lanes.lane3 i h]
    · rcases Nat.lt_or_ge i 24 with h2 | h2
      · have a : ¬ i < 8 := by omega
        have c : ¬ i < 16 := by omega
        have d : ¬ i - 8 < 8 := by omega
        have e : i - 8 - 8 < 8 := by omega
        simp [h2, hi, a, c, d, show i - 16 < 8 by omega, show i - 16 < 32 by omega, BitVec.getLsbD_of_ge lanes.lane3 i h,
          BitVec.getLsbD_of_ge lanes.lane2 (i - 8) (by omega), show i - 8 - 8 = i - 16 by omega]
      · have a : ¬ i < 8 := by omega
        have c : ¬ i < 16 := by omega
        have c' : ¬ i < 24 := by omega
        have d : ¬ i - 8 < 8 := by omega
        have e : ¬ i - 8 - 8 < 8 := by omega
        simp [hi, a, c, c', d, e, show i - 24 < 32 by omega, BitVec.getLsbD_of_ge lanes.lane3 i h,
          BitVec.getLsbD_of_ge lanes.lane2 (i - 8) (by omega), BitVec.getLsbD_of_ge lanes.lane1 (i - 16) (by omega),
          show i - 8 - 8 - 8 = i - 24 by omega]

theorem composeFromLanes_toNat (lanes : ByteLanes) :
    (composeFromLanes lanes).toNat =
      lanes.lane0.toNat * 2 ^ 24 + lanes.lane1.toNat * 2 ^ 16 + lanes.lane2.toNat * 2 ^ 8 + lanes.lane3.toNat := by
  have h1 := lanes.lane1.isLt
  have h2 := lanes.lane2.isLt
  have h3 := lanes.lane3.isLt
  rw [composeFromLanes_eq_append, BitVec.toNat_append, BitVec.toNat_append, BitVec.toNat_append,
    ← Nat.shiftLeft_add_eq_or_of_lt h3, ← Nat.shiftLeft_add_eq_or_of_lt h2, ← Nat.shiftLeft_add_eq_or_of_lt h1]
  simp only [Nat.shiftLeft_eq]
  omega

/-- Bit `i` of a joined word is bit `i mod 8` of the lane that holds it (R25). -/
theorem composeFromLanes_getLsbD (lanes : ByteLanes) (i : Nat) (hi : i < 32) :
    (composeFromLanes lanes).getLsbD i = (lanes.get ⟨3 - i / 8, by omega⟩).getLsbD (i % 8) := by
  rw [composeFromLanes_eq_append]
  rcases (by omega : i / 8 = 0 ∨ i / 8 = 1 ∨ i / 8 = 2 ∨ i / 8 = 3) with h | h | h | h <;>
    simp only [h, BitVec.getLsbD_append, ByteLanes.get]
  · simp [show i < 8 by omega, show i % 8 = i by omega]
  · simp [show ¬ i < 8 by omega, show i - 8 < 8 by omega, show i % 8 = i - 8 by omega]
  · simp [show ¬ i < 8 by omega, show ¬ i - 8 < 8 by omega, show i - 8 - 8 < 8 by omega, show i % 8 = i - 8 - 8 by omega]
  · simp [show ¬ i < 8 by omega, show ¬ i - 8 < 8 by omega, show ¬ i - 8 - 8 < 8 by omega,
      show i % 8 = i - 8 - 8 - 8 by omega]

/-- The digit a nibble is rendered as (R45), as a number. -/
theorem hexChar_toNat (n : Nibble) :
    (hexChar n).toNat = if n.toNat ≤ 9 then 0x30 + n.toNat else 0x37 + n.toNat := by
  revert n; decide

/-- `DIGITVAL(HEXCHAR(n)) = n` (R45). -/
@[simp] theorem digitVal_hexChar (n : Nibble) : digitVal (hexChar n) = some n := by
  revert n; decide

end Sys2Proof.Machine
end

