-- ==== Sys2Proof/Laws/Decode.lean ====
section
/-! SUPPORT. Select codes, the string operand, and the port bundles of the encoder. -/

namespace Sys2Proof

@[simp] theorem ofSelect_select (o : Operation) : Operation.ofSelect o.select = some o := by
  cases o <;> rfl

/-- A select code stands for at most one operation (R39). -/
theorem ofSelect_eq_some {op : BitVec 4} {o : Operation} : Operation.ofSelect op = some o ↔ op = o.select := by
  constructor
  · revert op; revert o; intro o; cases o <;> decide
  · rintro rfl; exact ofSelect_select o

/-- The reserved codes (R40). -/
theorem ofSelect_eq_none {op : BitVec 4} : Operation.ofSelect op = none ↔ 10 ≤ op.toNat := by
  revert op; decide

theorem ten_le_hexInMax : 10 ≤ Config.hexInMax := Nat.le_add_left _ _

theorem hexInMax_lt_two_pow : Config.hexInMax < 2 ^ Config.hexLenW := Nat.lt_log2_self

/-- The string operand of a bundle of this hardware (R42). -/
theorem stringOperand_of_wellFormed {r : Request} (h : r.wellFormed = true) :
    r.stringOperand =
      if r.hexLen ≤ Config.hexInMax then .ok (r.hexIn.take r.hexLen) else .error (.hexLenBeyondSlots r.hexLen) := by
  simp only [Request.wellFormed, Bool.and_eq_true, decide_eq_true_eq] at h
  simp [Request.stringOperand, h.1]

/-- A string that fits is what its own bundle carries. -/
theorem stringOperand_withString (r : Request) {str : HexInput} (h : str.length ≤ Config.hexInMax) :
    (r.withString str).stringOperand = .ok str := by
  simp [Request.stringOperand, Request.withString, h]

/-- A bundle of zeros is one of this hardware, whatever its select code. -/
theorem zeros_wellFormed (op : BitVec 4) : (Request.zeros op).wellFormed = true := by
  simp [Request.zeros, Request.wellFormed]

/-- The bundle of a string that fits is one of this hardware. -/
theorem withString_wellFormed (r : Request) {str : HexInput} (h : presentable str = true) :
    (r.withString str).wellFormed = true := by
  have hlen : str.length ≤ Config.hexInMax := by simpa [presentable] using h
  have hwires : str.length < 2 ^ Config.hexLenW := Nat.lt_of_le_of_lt hlen hexInMax_lt_two_pow
  simp [Request.wellFormed, Request.withString, hlen, hwires]

/-- The encoder writes the select code of the operation. -/
@[simp] theorem encode_op (i : Instr) : (encode i).op = i.operation.select := by
  cases i <;> rfl

/-- All that decoding can answer: the operation its `op` selects, with the operand of its format; a format-S operation with
the string operand. -/
theorem decode_ok_cases {r : Request} {i : Instr} (h : decode r = .ok i) :
    r.op = i.operation.select ∧
    (i = .floatToBits r.fIn ∨ i = .bitsToFloat r.bitsIn ∨ i = .decomposeToLanes r.bitsIn ∨
      i = .composeFromLanes r.laneIn ∨ i = .renderHex r.bitsIn ∨
      (∃ str, r.stringOperand = .ok str ∧ i = .parseHex str) ∨ i = .floatToLanes r.fIn ∨ i = .lanesToFloat r.laneIn ∨
      i = .floatToHex r.fIn ∨ ∃ str, r.stringOperand = .ok str ∧ i = .hexToFloat str) := by
  unfold decode at h
  cases ho : Operation.ofSelect r.op with
  | none => simp [ho] at h
  | some o =>
    have hop := ofSelect_eq_some.1 ho
    cases hs : r.stringOperand <;> cases o <;> simp [ho, hs, Except.map] at h <;> subst h <;>
      simp [hop, Instr.operation]

/-- A string that the decoder answers fits the slots. -/
theorem stringOperand_length {r : Request} {str : HexInput} (h : r.stringOperand = .ok str) :
    str.length ≤ Config.hexInMax := by
  unfold Request.stringOperand at h
  split at h
  · cases h; simp; omega
  · cases h

/-- What decodes is presentable. -/
theorem decode_wellFormed {r : Request} {i : Instr} (h : decode r = .ok i) : i.wellFormed = true := by
  obtain ⟨-, hi⟩ := decode_ok_cases h
  rcases hi with rfl | rfl | rfl | rfl | rfl | ⟨str, hs, rfl⟩ | rfl | rfl | rfl | ⟨str, hs, rfl⟩ <;>
    simp [Instr.wellFormed, presentable]
  all_goals exact stringOperand_length hs

end Sys2Proof
end

