-- ==== Sys2Proof/Laws/Hex.lean ====
section
/-! SUPPORT. The parser of R64 against the terms of `Safety`: prefix, digits, the value a row of digits spells. -/

namespace Sys2Proof.Machine

open Sys2Proof.Safety

theorem stripHexPrefix_eq_digitsOf (str : HexInput) : stripHexPrefix str = digitsOf str := by
  match str with
  | [] => rfl
  | [_] => simp [stripHexPrefix, digitsOf]
  | c0 :: c1 :: rest =>
    simp only [stripHexPrefix, charZero, charLowerX, charUpperX]
    split <;> rename_i h <;> simp [digitsOf, h]

/-- The decoder's table (R44) is the table of R43. -/
theorem digitVal_toNat (c : CharCode) : (digitVal c).map BitVec.toNat = digitNumber c := by
  revert c; decide

theorem digitVal_eq_none (c : CharCode) : digitVal c = none ↔ digitNumber c = none := by
  rw [← digitVal_toNat]; simp

theorem digitNumber_lt {c : CharCode} {d : Nat} (h : digitNumber c = some d) : d < 16 := by
  unfold digitNumber at h
  split at h
  · cases h; omega
  · split at h
    · cases h; omega
    · split at h
      · cases h; omega
      · cases h

/-- The digits of a string are below 16. -/
theorem digits_lt_of_map {cs : HexInput} {ds : List Nat} (h : cs.map digitNumber = ds.map some) :
    ∀ d ∈ ds, d < 16 := by
  intro d hd
  have : some d ∈ cs.map digitNumber := by rw [h]; exact List.mem_map_of_mem hd
  obtain ⟨c, -, hc⟩ := List.mem_map.1 this
  exact digitNumber_lt hc

/-- A string of hex characters only has a row of digits. -/
theorem exists_digits {cs : HexInput} (h : ∀ c ∈ cs, digitNumber c ≠ none) :
    ∃ ds : List Nat, cs.map digitNumber = ds.map some := by
  induction cs with
  | nil => exact ⟨[], rfl⟩
  | cons c rest ih =>
    obtain ⟨ds, hds⟩ := ih fun x hx => h x (List.mem_cons_of_mem _ hx)
    obtain ⟨d, hd⟩ := Option.ne_none_iff_exists'.1 (h c List.mem_cons_self)
    exact ⟨d :: ds, by simp [hd, hds]⟩

theorem numeral_lt {ds : List Nat} (h : ∀ d ∈ ds, d < 16) : numeral ds < 16 ^ ds.length := by
  induction ds with
  | nil => simp [numeral]
  | cons d rest ih =>
    have hd := h d List.mem_cons_self
    have hr := ih fun x hx => h x (List.mem_cons_of_mem _ hx)
    have : (d + 1) * 16 ^ rest.length ≤ 16 * 16 ^ rest.length := Nat.mul_le_mul_right _ hd
    simp only [numeral, List.length_cons, Nat.pow_succ]
    rw [Nat.add_mul] at this
    omega

/-- The loop of R64 on hex characters: the value read so far moves up one place per digit. -/
theorem hexValueFrom_digits {cs : HexInput} {ds : List Nat} (h : cs.map digitNumber = ds.map some) (v : Nat) :
    hexValueFrom v cs = some (v * 16 ^ ds.length + numeral ds) := by
  induction cs generalizing ds v with
  | nil =>
    cases ds with
    | nil => simp [hexValueFrom, numeral]
    | cons => simp at h
  | cons c rest ih =>
    cases ds with
    | nil => simp at h
    | cons d ds =>
      simp only [List.map_cons, List.cons.injEq] at h
      obtain ⟨hc, hrest⟩ := h
      rw [← digitVal_toNat] at hc
      obtain ⟨n, hn, rfl⟩ := Option.map_eq_some_iff.1 hc
      simp only [hexValueFrom, hn, ih hrest, numeral, List.length_cons, Nat.pow_succ]
      congr 1; ring

/-- The loop of R64 stops without a value exactly when it meets a non-hex character. -/
theorem hexValueFrom_eq_none {cs : HexInput} {v : Nat} :
    hexValueFrom v cs = none ↔ ∃ c ∈ cs, digitNumber c = none := by
  induction cs generalizing v with
  | nil => simp [hexValueFrom]
  | cons c rest ih =>
    simp only [hexValueFrom]
    cases hd : digitVal c with
    | none => simp [(digitVal_eq_none c).1 hd]
    | some d =>
      have : digitNumber c ≠ none := fun hn => by simp [(digitVal_eq_none c).2 hn] at hd
      simp [ih, this]

/-- `parseHex` on a string with the digits `ds` (R64, R69). -/
theorem parseHex_of_spells {str : HexInput} {ds : List Nat} (h : Spells str ds) :
    parseHex str = if numeral ds < 2 ^ 32 then some (BitVec.ofNat 32 (numeral ds)) else none := by
  obtain ⟨hne, hmap⟩ := h
  unfold parseHex
  rw [stripHexPrefix_eq_digitsOf]
  cases hd : digitsOf str with
  | nil => rw [hd] at hmap; cases ds <;> simp_all
  | cons c rest => simp [hexValueFrom_digits (hd ▸ hmap)]

/-- Every string is without digits, has a non-hex character, or spells a row of digits. -/
theorem string_cases (str : HexInput) :
    digitsOf str = [] ∨ (∃ c ∈ digitsOf str, digitNumber c = none) ∨ ∃ ds, Spells str ds := by
  by_cases hempty : digitsOf str = []
  · exact .inl hempty
  · by_cases hbad : ∃ c ∈ digitsOf str, digitNumber c = none
    · exact .inr (.inl hbad)
    · refine .inr (.inr ?_)
      have hall : ∀ c ∈ digitsOf str, digitNumber c ≠ none := fun c hc hn => hbad ⟨c, hc, hn⟩
      obtain ⟨ds, hds⟩ := exists_digits hall
      refine ⟨ds, fun h0 => hempty ?_, hds⟩
      rw [h0] at hds
      simpa using hds

/-- `parseHex` without digits (R67). -/
theorem parseHex_no_digits {str : HexInput} (h : digitsOf str = []) : parseHex str = none := by
  unfold parseHex; rw [stripHexPrefix_eq_digitsOf, h]

/-- `parseHex` with a non-hex character (R68). -/
theorem parseHex_non_hex {str : HexInput} (h : ∃ c ∈ digitsOf str, digitNumber c = none) : parseHex str = none := by
  unfold parseHex
  rw [stripHexPrefix_eq_digitsOf]
  cases hd : digitsOf str with
  | nil => rfl
  | cons c rest => simp [hexValueFrom_eq_none.2 (hd ▸ h)]

/-- `parseHex` depends on the numbers of the digits only, not on their spelling (R65). -/
theorem parseHex_congr {a b : HexInput} (h : (digitsOf a).map digitNumber = (digitsOf b).map digitNumber) :
    parseHex a = parseHex b := by
  have hlen : digitsOf a = [] → digitsOf b = [] := by
    intro ha
    rw [ha] at h
    simpa using h.symm
  have hnone : (∃ c ∈ digitsOf a, digitNumber c = none) → ∃ c ∈ digitsOf b, digitNumber c = none := by
    rintro ⟨c, hc, hn⟩
    have hmem : none ∈ (digitsOf a).map digitNumber := by rw [← hn]; exact List.mem_map_of_mem hc
    rw [h] at hmem
    simpa using hmem
  rcases string_cases a with h1 | h1 | ⟨ds, h1⟩
  · rw [parseHex_no_digits h1, parseHex_no_digits (hlen h1)]
  · rw [parseHex_non_hex h1, parseHex_non_hex (hnone h1)]
  · rw [parseHex_of_spells h1, parseHex_of_spells (str := b) ⟨h1.1, h ▸ h1.2⟩]

end Sys2Proof.Machine
end

