-- ==== Sys2Proof/Laws/Host.lean ====
section
/-! SUPPORT. The caller's side (R100 to R102): one lemma per field per update, and what accumulating a signal leaves in each
lane. -/

namespace Sys2Proof.Machine

@[simp] theorem accumulate_output (host : HostSide) (signal : HostSignal) :
    (host.accumulate signal).output = host.output := rfl
@[simp] theorem accumulate_channels (host : HostSide) (signal : HostSignal) :
    (host.accumulate signal).channels = host.channels.accumulate signal := rfl
@[simp] theorem writeChannels_output (host : HostSide) (r : Response) : (host.writeChannels r).output = host.output := rfl
@[simp] theorem writeChannels_channels (host : HostSide) (r : Response) :
    (host.writeChannels r).channels = host.channels.store r := rfl
@[simp] theorem writeOutput_channels (host : HostSide) (r : Response) :
    (host.writeOutput r).channels = host.channels := by
  cases r <;> rfl
@[simp] theorem writeOutput_float (host : HostSide) (f : FloatValue) : (host.writeOutput (.float f)).output = f := rfl

/-- Latching one channel writes its own lane and no other (R100, R103). -/
theorem latch_get (channel other : HostChannel) (value : Byte) (lanes : ByteLanes) :
    (channel.latch value lanes).get other.lane = if other = channel then value else lanes.get other.lane := by
  cases channel <;> cases other <;> rfl

/-- After several changes a lane holds the last byte given for its channel, or what it held before (R102). -/
theorem latchAll_get (changes : List (HostChannel × Byte)) (lanes : ByteLanes) (channel : HostChannel) :
    (latchAll changes lanes).get channel.lane = (changes.reverse.lookup channel).getD (lanes.get channel.lane) := by
  induction changes generalizing lanes with
  | nil => rfl
  | cons change rest ih =>
    obtain ⟨named, value⟩ := change
    rw [latchAll, ih, latch_get, List.reverse_cons, List.lookup_append]
    cases hrest : rest.reverse.lookup channel with
    | some v => simp
    | none =>
      by_cases h : channel = named
      · simp [List.lookup, h]
      · have hne : (channel == named) = false := by simpa using h
        simp [List.lookup, h, hne]

end Sys2Proof.Machine
end

