-- ==== Sys2Proof/Laws/PerInstr.lean ====
section
/-! SUPPORT. Statements made per instruction. -/

/-- The bundle that presents a presentable instruction is one of this hardware (R38). -/
def Sys2Proof.Laws.EncodePresentable.Statement (i : Sys2Proof.Instr) : Prop :=
  i.wellFormed = true → (Sys2Proof.encode i).wellFormed = true

namespace Sys2Proof.Laws.EncodePresentable

open Sys2Proof

theorem floatToBits (f : FloatValue) : Statement (.floatToBits f) := fun _ => zeros_wellFormed 0#4
theorem bitsToFloat (bits : BitPattern) : Statement (.bitsToFloat bits) := fun _ => zeros_wellFormed 0#4
theorem decomposeToLanes (bits : BitPattern) : Statement (.decomposeToLanes bits) := fun _ => zeros_wellFormed 0#4
theorem composeFromLanes (lanes : ByteLanes) : Statement (.composeFromLanes lanes) := fun _ => zeros_wellFormed 0#4
theorem renderHex (bits : BitPattern) : Statement (.renderHex bits) := fun _ => zeros_wellFormed 0#4
theorem parseHex (str : HexInput) : Statement (.parseHex str) := fun h => withString_wellFormed _ h
theorem floatToLanes (f : FloatValue) : Statement (.floatToLanes f) := fun _ => zeros_wellFormed 0#4
theorem lanesToFloat (lanes : ByteLanes) : Statement (.lanesToFloat lanes) := fun _ => zeros_wellFormed 0#4
theorem floatToHex (f : FloatValue) : Statement (.floatToHex f) := fun _ => zeros_wellFormed 0#4
theorem hexToFloat (str : HexInput) : Statement (.hexToFloat str) := fun h => withString_wellFormed _ h

end Sys2Proof.Laws.EncodePresentable
end

