-- ==== Sys2Proof/Laws/State.lean ====
section
/-! SUPPORT. One lemma per field per update of the state, and what the shared operations can do. -/

namespace Sys2Proof.Machine

open Sys2Proof.Safety

@[simp] theorem respond_pending (s : State) (r : Response) : (s.respond r).pending = s.pending := rfl
@[simp] theorem respond_responses (s : State) (r : Response) : (s.respond r).responses = s.responses ++ [r] := rfl
@[simp] theorem raise_pending (s : State) : s.raiseMalformedHexInput.pending = s.pending := rfl
@[simp] theorem raise_responses (s : State) :
    s.raiseMalformedHexInput.responses = s.responses ++ [.malformedHexInput] := rfl
@[simp] theorem answered_pending (s : State) (r : Response) : (answered s r).pending = s.pending := rfl
@[simp] theorem answered_responses (s : State) (r : Response) : (answered s r).responses = s.responses ++ [r] := rfl
@[simp] theorem withFetchWord_pending (s : State) (nbits w : Nat) :
    (s.withFetchWord nbits w).pending = requestOfTableWord nbits w :: s.pending := rfl
@[simp] theorem withFetchWord_responses (s : State) (nbits w : Nat) :
    (s.withFetchWord nbits w).responses = s.responses := rfl
@[simp] theorem reset_pending : State.reset.pending = [] := rfl
@[simp] theorem reset_responses : State.reset.responses = [] := rfl

theorem respond_eq_answered (s : State) (r : Response) : s.respond r = answered s r := rfl

/-- Two different responses give two different states. -/
theorem answered_injective {s : State} {r r' : Response} : answered s r = answered s r' ↔ r = r' := by
  simp [answered]

theorem respondOrRaise_eq_answered (s : State) (result : Option Response) :
    s.respondOrRaise result = answered s (result.getD .malformedHexInput) := by
  cases result <;> rfl

/-- All a format-S operation can do. -/
theorem answerString_eq (str : HexInput) (result : Option Response) (s : State) :
    answerString str result s =
      if str.length ≤ Config.hexInMax then .next (answered s (result.getD .malformedHexInput))
      else .refused (.stringNotPresentable str.length) := by
  simp [answerString, presentable, respondOrRaise_eq_answered]

end Sys2Proof.Machine
end

