-- ==== Sys2Proof/Laws/Step.lean ====
section
/-! SUPPORT. Once: what an instruction and a step can do. -/

namespace Sys2Proof.Machine

open Sys2Proof.Safety

/-- The response to an instruction that can be presented. -/
def responseOf : Instr → Response
  | .floatToBits f => .bits (floatToBits f)
  | .bitsToFloat bits => .float (bitsToFloat bits)
  | .decomposeToLanes bits => .lanes (decomposeToLanes bits)
  | .composeFromLanes lanes => .bits (composeFromLanes lanes)
  | .renderHex bits => .hex (renderHex bits)
  | .parseHex str => ((parseHex str).map .bits).getD .malformedHexInput
  | .floatToLanes f => .lanes (floatToLanes f)
  | .lanesToFloat lanes => .float (lanesToFloat lanes)
  | .floatToHex f => .hex (floatToHex f)
  | .hexToFloat str => ((hexToFloat str).map .float).getD .malformedHexInput

/-- An instruction that can be presented is answered, and nothing else happens. -/
theorem exec_of_wellFormed {i : Instr} (h : i.wellFormed = true) (s : State) :
    exec i s = .next (answered s (responseOf i)) := by
  cases i <;> simp_all [exec, responseOf, Instr.wellFormed, presentable, execParseHex, execHexToFloat, answerString_eq] <;>
    rfl

/-- An instruction that cannot be presented is refused (R92 c). -/
theorem exec_of_not_wellFormed {i : Instr} (h : i.wellFormed = false) (s : State) :
    ∃ str : HexInput, (i = .parseHex str ∨ i = .hexToFloat str) ∧ Config.hexInMax < str.length ∧
      exec i s = .refused (.stringNotPresentable str.length) := by
  cases i with
  | parseHex str =>
    have h' : ¬ str.length ≤ Config.hexInMax := by simpa [Instr.wellFormed, presentable] using h
    exact ⟨str, .inl rfl, by omega, by simp [exec, execParseHex, answerString_eq, h']⟩
  | hexToFloat str =>
    have h' : ¬ str.length ≤ Config.hexInMax := by simpa [Instr.wellFormed, presentable] using h
    exact ⟨str, .inr rfl, by omega, by simp [exec, execHexToFloat, answerString_eq, h']⟩
  | _ => simp [Instr.wellFormed] at h

/-- All that `exec` can answer with a next state. -/
theorem exec_next_iff {i : Instr} {s t : State} :
    exec i s = .next t ↔ i.wellFormed = true ∧ t = answered s (responseOf i) := by
  cases hi : i.wellFormed with
  | true => simp [exec_of_wellFormed hi, eq_comm]
  | false =>
    obtain ⟨str, -, -, he⟩ := exec_of_not_wellFormed hi s
    simp [he]

/-- All that a step can answer with a next state: nothing pending and nothing changed, or the next request taken off the
list, decoded and answered. -/
theorem step_cases {s t : State} (h : step s = .next t) :
    (s.pending = [] ∧ t = s) ∨
    ∃ r rest i, s.pending = r :: rest ∧ decode r = .ok i ∧
      t = { pending := rest, responses := s.responses ++ [responseOf i] } := by
  unfold step at h
  split at h
  · rename_i hp
    cases h
    exact .inl ⟨hp, rfl⟩
  · rename_i r rest hp
    split at h
    · cases h
    · rename_i i hd
      obtain ⟨-, rfl⟩ := exec_next_iff.1 h
      exact .inr ⟨r, rest, i, hp, hd, rfl⟩

/-- A pending request that decodes is answered. -/
theorem step_of_decode {r : Request} {i : Instr} (h : decode r = .ok i) (rest : List Request) (done : List Response) :
    step { pending := r :: rest, responses := done } = .next { pending := rest, responses := done ++ [responseOf i] } := by
  simp [step, h, exec_of_wellFormed (decode_wellFormed h), answered]

/-- A lawful request decodes (R92, R94). -/
theorem decode_of_lawful {r : Request} (h : lawful r = true) : ∃ i, decode r = .ok i := by
  unfold lawful at h
  cases ho : Operation.ofSelect r.op with
  | none => simp [ho] at h
  | some o =>
    simp only [ho, Bool.and_eq_true, Bool.or_eq_true, decide_eq_true_eq] at h
    have hs := stringOperand_of_wellFormed h.1
    cases o <;> simp_all [decode, Operation.format, Except.map]

/-- A run presents its first request and goes on. -/
theorem run_cons {r : Request} {i : Instr} (h : decode r = .ok i) (n : Nat) (rest : List Request) (done : List Response) :
    core.run (n + 1) { pending := r :: rest, responses := done } =
      core.run n { pending := rest, responses := done ++ [responseOf i] } := by
  have hs : core.step { pending := r :: rest, responses := done } =
      .next { pending := rest, responses := done ++ [responseOf i] } := step_of_decode h rest done
  simp only [Host.Core.run, hs]

end Sys2Proof.Machine
end

