-- ==== Sys2Proof/Tests/Slice0.lean ====
section
/-! SUPPORT. Tests against the examples and vectors of `95_test_vectors.md` (named S and V there) and the tables of the rules;
an ill-formed term for each check; and, for each statement with hypotheses, a witness that meets them. -/

namespace Sys2Proof.Tests

open Sys2Proof Sys2Proof.Machine Sys2Proof.Safety

/-- The response to one request in a fresh run; none if the step does not answer. -/
def respondTo (r : Request) : Option Response :=
  match step { pending := [r], responses := [] } with
  | .next t => t.responses.head?
  | .fault _ => none
  | .refused _ => none

/-- The response to one instruction in a fresh run. -/
def answerTo (i : Instr) : Option Response :=
  match exec i State.reset with
  | .next t => t.responses.head?
  | .fault _ => none
  | .refused _ => none

/-- A bundle of ten slots, every port the operation might read filled with something. -/
def noisy (op : BitVec 4) : Request :=
  { op := op, fIn := ⟨0x3F800000⟩, bitsIn := 0xDEADBEEF, laneIn := ⟨0x12, 0x34, 0x56, 0x78⟩, hexLen := 8,
    hexIn := [0x33, 0x66, 0x38, 0x30, 0x30, 0x30, 0x30, 0x30, 0x5A, 0x5A] }

/-! ### Widths (R5, R6) -/

theorem test_widths_are_the_constants : BitPattern = BitVec Config.wordW ∧ Byte = BitVec Config.laneW ∧
    CharCode = BitVec Config.charW ∧ HexString = Vector CharCode Config.hexOutLen ∧
    Config.hexOutLen = 2 + Config.hexDigits ∧ Config.wordW = Config.nLanes * Config.laneW ∧
    Config.wordW = 4 * Config.hexDigits ∧ Config.opW = 4 := ⟨rfl, rfl, rfl, rfl, rfl, rfl, rfl, rfl⟩

/-! ### Well-formedness: an ill-formed term for each check -/

theorem test_too_long_parseHex_ill_formed :
    (Instr.parseHex (List.replicate (Config.hexInMax + 1) 0x30)).wellFormed = false := by
  simp [Instr.wellFormed, presentable]
theorem test_too_long_hexToFloat_ill_formed :
    (Instr.hexToFloat (List.replicate (Config.hexInMax + 1) 0x30)).wellFormed = false := by
  simp [Instr.wellFormed, presentable]
theorem test_missing_slots_ill_formed : ({ Request.zeros 0x5#4 with hexIn := [] } : Request).wellFormed = false := rfl
theorem test_hexLen_beyond_its_wires_ill_formed :
    ({ Request.zeros 0x5#4 with hexLen := 2 ^ Config.hexLenW } : Request).wellFormed = false := by
  simp [Request.wellFormed]

/-! ### Decoding: the select codes of R39, bit by bit, as words of the operation table -/

theorem test_decode_floatToBits : decodeTableWord 8 0b0000 = some (.floatToBits ⟨0⟩) := by decide
theorem test_decode_bitsToFloat : decodeTableWord 8 0b0001 = some (.bitsToFloat 0) := by decide
theorem test_decode_decomposeToLanes : decodeTableWord 8 0b0010 = some (.decomposeToLanes 0) := by decide
theorem test_decode_composeFromLanes : decodeTableWord 8 0b0011 = some (.composeFromLanes ⟨0, 0, 0, 0⟩) := by decide
theorem test_decode_renderHex : decodeTableWord 8 0b0100 = some (.renderHex 0) := by decide
theorem test_decode_parseHex : decodeTableWord 8 0b0101 = some (.parseHex []) := by decide
theorem test_decode_floatToLanes : decodeTableWord 8 0b0110 = some (.floatToLanes ⟨0⟩) := by decide
theorem test_decode_lanesToFloat : decodeTableWord 8 0b0111 = some (.lanesToFloat ⟨0, 0, 0, 0⟩) := by decide
theorem test_decode_floatToHex : decodeTableWord 8 0b1000 = some (.floatToHex ⟨0⟩) := by decide
theorem test_decode_hexToFloat : decodeTableWord 8 0b1001 = some (.hexToFloat []) := by decide

/-- V113: the six reserved codes. -/
theorem test_reserved_codes_refused : ∀ op : BitVec 4, 10 ≤ op.toNat → respondTo (noisy op) = none := by decide

/-! ### One step per operation, operands on the ports, the other ports filled (V111, V112, V67) -/

theorem test_step_floatToBits : respondTo (noisy 0x0) = some (.bits 0x3F800000) := by decide
theorem test_step_bitsToFloat : respondTo (noisy 0x1) = some (.float ⟨0xDEADBEEF⟩) := by decide
theorem test_step_decomposeToLanes : respondTo (noisy 0x2) = some (.lanes ⟨0xDE, 0xAD, 0xBE, 0xEF⟩) := by decide
theorem test_step_composeFromLanes : respondTo (noisy 0x3) = some (.bits 0x12345678) := by decide
theorem test_step_renderHex : respondTo (noisy 0x4) =
    some (.hex #v[0x30, 0x78, 0x44, 0x45, 0x41, 0x44, 0x42, 0x45, 0x45, 0x46]) := by decide
theorem test_step_parseHex : respondTo (noisy 0x5) = some (.bits 0x3F800000) := by decide
theorem test_step_floatToLanes : respondTo (noisy 0x6) = some (.lanes ⟨0x3F, 0x80, 0x00, 0x00⟩) := by decide
theorem test_step_lanesToFloat : respondTo (noisy 0x7) = some (.float ⟨0x12345678⟩) := by decide
theorem test_step_floatToHex : respondTo (noisy 0x8) =
    some (.hex #v[0x30, 0x78, 0x33, 0x46, 0x38, 0x30, 0x30, 0x30, 0x30, 0x30]) := by decide
theorem test_step_hexToFloat : respondTo (noisy 0x9) = some (.float ⟨0x3F800000⟩) := by decide

/-! ### Corners -/

/-- V20: a signalling NaN is not quieted. -/
theorem test_floatToBits_keeps_signalling_nan : answerTo (.floatToBits ⟨0x7F800001⟩) = some (.bits 0x7F800001) := by decide
/-- V32: no sign extension of the last lane. -/
theorem test_composeFromLanes_no_sign_extension : answerTo (.composeFromLanes ⟨0, 0, 0, 0xFF⟩) = some (.bits 0x000000FF) := by
  decide
/-- V45: the digits `9` to `F` and `0`. -/
theorem test_renderHex_letters : answerTo (.renderHex 0x9ABCDEF0) =
    some (.hex #v[0x30, 0x78, 0x39, 0x41, 0x42, 0x43, 0x44, 0x45, 0x46, 0x30]) := by decide
/-- V54 and V60: prefix case free of digit case; the greatest value that fits. -/
theorem test_parseHex_succeeds :
    answerTo (.parseHex [0x30, 0x58, 0x62, 0x46, 0x38, 0x30, 0x30, 0x30, 0x30, 0x30]) = some (.bits 0xBF800000) ∧
    answerTo (.parseHex [0x46, 0x46, 0x46, 0x46, 0x46, 0x46, 0x46, 0x46]) = some (.bits 0xFFFFFFFF) := by decide
/-- V68, V69, V87, V88: no digits, the bare prefix, an embedded zero code, exactly `2^32`. -/
theorem test_parseHex_fails :
    answerTo (.parseHex []) = some .malformedHexInput ∧ answerTo (.parseHex [0x30, 0x78]) = some .malformedHexInput ∧
    answerTo (.parseHex [0x33, 0x46, 0x00, 0x38, 0x30]) = some .malformedHexInput ∧
    answerTo (.parseHex [0x31, 0x30, 0x30, 0x30, 0x30, 0x30, 0x30, 0x30, 0x30]) = some .malformedHexInput := by decide
/-- V65, in an instance with at least 18 slots: leading zeros beyond eight digits. -/
theorem test_parseHex_leading_zeros (h : 18 ≤ Config.hexInMax) :
    exec (.parseHex ([0x30, 0x78] ++ List.replicate 8 0x30 ++ List.replicate 8 0x46)) State.reset =
      .next { pending := [], responses := [.bits 0xFFFFFFFF] } := by
  rw [exec_of_wellFormed (by simpa [Instr.wellFormed, presentable] using h)]; rfl
/-- S13 and V105: no float in place of an error; the numeral is of the bit pattern. -/
theorem test_hexToFloat :
    answerTo (.hexToFloat [0x6E, 0x6F, 0x74, 0x2D, 0x68, 0x65, 0x78]) = some .malformedHexInput ∧
    answerTo (.hexToFloat [0x31]) = some (.float ⟨0x00000001⟩) := by decide
/-- V95. -/
theorem test_floatToLanes_nan : answerTo (.floatToLanes ⟨0xFFA00001⟩) = some (.lanes ⟨0xFF, 0xA0, 0x00, 0x01⟩) := by decide
/-- V98. -/
theorem test_lanesToFloat_nan : answerTo (.lanesToFloat ⟨0x7F, 0x80, 0x00, 0x01⟩) = some (.float ⟨0x7F800001⟩) := by decide
/-- V101: negative zero is text with its sign bit. -/
theorem test_floatToHex_negative_zero : answerTo (.floatToHex ⟨0x80000000⟩) =
    some (.hex #v[0x30, 0x78, 0x38, 0x30, 0x30, 0x30, 0x30, 0x30, 0x30, 0x30]) := by decide
/-- V90 in the 32-bit form of R64: the overflow bit is seen at the ninth digit. -/
theorem test_hardware_parse_overflow :
    parseHexInHardware [0x31, 0x46, 0x46, 0x46, 0x46, 0x46, 0x46, 0x46, 0x46] = none := by decide
/-- The table of R45. -/
theorem test_hexChar_table : (List.range 16).map (fun n => hexChar (BitVec.ofNat 4 n)) =
    [0x30, 0x31, 0x32, 0x33, 0x34, 0x35, 0x36, 0x37, 0x38, 0x39, 0x41, 0x42, 0x43, 0x44, 0x45, 0x46] := by decide
/-- V8, V9 and V7 read as numbers (R55), in units of `2^(-149)`: 100.0, -118.625 and 0.15625; and the class of V20. -/
theorem test_numeric_reading :
    floatUnits ⟨0x42C80000⟩ = 100 * 2 ^ 149 ∧
    (floatSign ⟨0xC2ED4000⟩ = true ∧ floatUnits ⟨0xC2ED4000⟩ * 1000 = 118625 * 2 ^ 149) ∧
    floatUnits ⟨0x3E200000⟩ * 100000 = 15625 * 2 ^ 149 ∧
    floatClass ⟨0x7F800001⟩ = .signallingNaN ∧ floatNumber ⟨0x7F800001⟩ = none := by decide
/-- P5, step 1: joining after the first of two channel changes gives the mixture `4.0`, and no error; it is what the output
property then holds. -/
theorem test_stale_lane_is_joined :
    let host := HostSide.accumulate { channels := .four ⟨0x3F, 0x80, 0x00, 0x00⟩, output := ⟨0x3F800000⟩ } (.lanes [(.msb, 0x40)])
    (answerTo host.channels.signalChanged).map host.writeOutput =
      some { channels := .four ⟨0x40, 0x80, 0x00, 0x00⟩, output := ⟨0x40800000⟩ } := by decide
/-- P5 with both changes in one signal: `2.0`. -/
theorem test_current_lanes_are_joined :
    let host := HostSide.accumulate { channels := .four ⟨0x3F, 0x80, 0x00, 0x00⟩, output := ⟨0x3F800000⟩ }
      (.lanes [(.msb, 0x40), (.byte3, 0x00)])
    (answerTo host.channels.signalChanged).map host.writeOutput =
      some { channels := .four ⟨0x40, 0x00, 0x00, 0x00⟩, output := ⟨0x40000000⟩ } := by decide
/-- The `err` bit (R80). -/
theorem test_err_bit : Response.malformedHexInput.err = 1 ∧ (Response.bits 0).err = 0 := by decide

/-! ### Witnesses: the hypotheses of each statement can be met together -/

/-- `"FFFFFFFF"`, the greatest row of digits that fits. -/
def eightFs : HexInput := List.replicate 8 0x46

theorem eightFs_fits : eightFs.length ≤ Config.hexInMax := le_trans (by decide) ten_le_hexInMax
theorem eightFs_spells : Spells eightFs (List.replicate 8 15) := ⟨by decide, by decide⟩
theorem nineDigits_fit : (0x31 :: List.replicate 8 0x30 : HexInput).length ≤ Config.hexInMax :=
  le_trans (by decide) ten_le_hexInMax
theorem zeros_lawful : lawful (Request.zeros 0x4#4) = true := by
  have h : Operation.ofSelect (Request.zeros 0x4#4).op = some .renderHex := rfl
  simp [lawful, h, zeros_wellFormed, Operation.format]

theorem witness_FloatToBitsKeepsEveryBit : (noisy 0x0).op = 0x0#4 := rfl
theorem witness_BitsToFloatKeepsEveryBit : (noisy 0x1).op = 0x1#4 := rfl
theorem witness_DecomposeToLanesSplitsBigEndian : (noisy 0x2).op = 0x2#4 := rfl
theorem witness_ComposeFromLanesJoinsBigEndian : (noisy 0x3).op = 0x3#4 := rfl
theorem witness_RenderHexWritesEightUppercaseDigits : (noisy 0x4).op = 0x4#4 := rfl
theorem witness_FloatToLanesSplitsThePattern : (noisy 0x6).op = 0x6#4 := rfl
theorem witness_LanesToFloatJoinsThePattern : (noisy 0x7).op = 0x7#4 := rfl
theorem witness_FloatToHexRendersThePattern : (noisy 0x8).op = 0x8#4 := rfl
theorem witness_ParseHexReadsTheNumeralOrFails :
    ((encode (.parseHex eightFs)).op = 0x5#4 ∧ (encode (.parseHex eightFs)).wellFormed = true ∧
      (encode (.parseHex eightFs)).hexLen ≤ Config.hexInMax) ∧
    (eightFs.length ≤ Config.hexInMax ∧ Spells eightFs (List.replicate 8 15) ∧ numeral (List.replicate 8 15) < 2 ^ 32) ∧
    (([] : HexInput).length ≤ Config.hexInMax ∧ Malformed []) ∧
    parseHexInHardware eightFs = some 0xFFFFFFFF ∧ parseHexInHardware [] = none :=
  ⟨⟨rfl, Laws.EncodePresentable.parseHex _ (by simpa [Instr.wellFormed, presentable] using eightFs_fits), eightFs_fits⟩,
    ⟨eightFs_fits, eightFs_spells, by decide⟩, ⟨Nat.zero_le _, .inl rfl⟩, by decide, by decide⟩
theorem witness_HexToFloatReadsThePatternOrFails :
    ((encode (.hexToFloat eightFs)).op = 0x9#4 ∧ (encode (.hexToFloat eightFs)).wellFormed = true ∧
      (encode (.hexToFloat eightFs)).hexLen ≤ Config.hexInMax) ∧
    (eightFs.length ≤ Config.hexInMax ∧ Spells eightFs (List.replicate 8 15) ∧ numeral (List.replicate 8 15) < 2 ^ 32) ∧
    ([] : HexInput).length ≤ Config.hexInMax ∧ Malformed [] :=
  ⟨⟨rfl, Laws.EncodePresentable.hexToFloat _ (by simpa [Instr.wellFormed, presentable] using eightFs_fits), eightFs_fits⟩,
    ⟨eightFs_fits, eightFs_spells, by decide⟩, Nat.zero_le _, .inl rfl⟩
/-- Each of the three causes occurs: `"0x"`, `"g"`, `"100000000"`. -/
theorem witness_ErrorIsRaisedInExactlyThreeCases :
    (Malformed [0x30, 0x78] ∧ Malformed [0x67] ∧ Malformed (0x31 :: List.replicate 8 0x30)) ∧
    ([0x30, 0x78] : HexInput).length ≤ Config.hexInMax ∧ ([0x67] : HexInput).length ≤ Config.hexInMax ∧
    (0x31 :: List.replicate 8 0x30 : HexInput).length ≤ Config.hexInMax :=
  ⟨⟨.inl (by decide), .inr (.inl ⟨0x67, by decide, by decide⟩),
      .inr (.inr ⟨1 :: List.replicate 8 0, ⟨by decide, by decide⟩, by decide⟩)⟩,
    le_trans (by decide) ten_le_hexInMax, le_trans (by decide) ten_le_hexInMax, nineDigits_fit⟩
theorem witness_CompositionEqualsItsExpansion :
    exec (.floatToBits ⟨0x3F800000⟩) State.reset = .next (answered State.reset (.bits 0x3F800000)) ∧
    exec (.composeFromLanes ⟨0x3F, 0x80, 0, 0⟩) State.reset = .next (answered State.reset (.bits 0x3F800000)) ∧
    exec (.parseHex [0x31]) State.reset = .next (answered State.reset (.bits 1)) ∧
    exec (.parseHex []) State.reset = .next (answered State.reset .malformedHexInput) := ⟨rfl, rfl, rfl, rfl⟩
theorem witness_PrefixIsSkippedOnceAtTheStart :
    (0x78#8 = 0x78#8 ∨ 0x78#8 = 0x58#8) ∧ digitsOf (List.replicate 6 0x46) = List.replicate 6 0x46 ∧
    (List.replicate 6 (0x46 : CharCode)).length + 2 ≤ Config.hexInMax ∧
    (List.replicate 6 (0x46 : CharCode)).length + 4 ≤ Config.hexInMax :=
  ⟨.inl rfl, by decide, le_trans (by decide) ten_le_hexInMax, le_trans (by decide) ten_le_hexInMax⟩
/-- `"3F8 "`: the trailing space. -/
theorem witness_OneNonHexCharacterFails :
    ([0x33, 0x46, 0x38, 0x20] : HexInput).length ≤ Config.hexInMax ∧
    digitsOf [0x33, 0x46, 0x38, 0x20] = [0x33, 0x46, 0x38] ++ 0x20 :: [] ∧ digitNumber 0x20 = none :=
  ⟨le_trans (by decide) ten_le_hexInMax, by decide, by decide⟩
theorem witness_NumberOfDigitsIsFree :
    (eightFs.length ≤ Config.hexInMax ∧ Spells eightFs (List.replicate 8 15)) ∧
    eightFs ≠ [] ∧ (∀ c ∈ eightFs, (digitNumber c).isSome) ∧ 2 + eightFs.length ≤ Config.hexInMax :=
  ⟨⟨eightFs_fits, eightFs_spells⟩, by decide, by decide, le_trans (by decide) ten_le_hexInMax⟩
theorem witness_EightDigitsFitAndGreaterValuesFail :
    (eightFs.length ≤ Config.hexInMax ∧ Spells eightFs (List.replicate 8 15) ∧ (List.replicate 8 15).length ≤ 8) ∧
    (0x31 :: List.replicate 8 0x30 : HexInput).length ≤ Config.hexInMax ∧
    Spells (0x31 :: List.replicate 8 0x30) (1 :: List.replicate 8 0) ∧ 8 < (1 :: List.replicate 8 0).length ∧
    2 ^ 32 ≤ numeral (1 :: List.replicate 8 0) ∧ (1 :: List.replicate 8 0).head? ≠ some 0 :=
  ⟨⟨eightFs_fits, eightFs_spells, by decide⟩, nineDigits_fit, ⟨by decide, by decide⟩, by decide, by decide, by decide⟩
theorem witness_DecodeOfEncodeIsTheInstruction : (Instr.parseHex eightFs).wellFormed = true := by
  simpa [Instr.wellFormed, presentable] using eightFs_fits
theorem witness_DecodedInstructionIsPresentable :
    (Request.zeros 0x5#4).wellFormed = true ∧ decode (Request.zeros 0x5#4) = .ok (.parseHex []) := ⟨zeros_wellFormed _, rfl⟩
theorem witness_OperationMapIsAsTabulated :
    ((Request.zeros 0x9#4).wellFormed = true ∧ (Request.zeros 0x9#4).hexLen ≤ Config.hexInMax) ∧
    (Instr.hexToFloat []).wellFormed = true := ⟨⟨zeros_wellFormed _, Nat.zero_le _⟩, rfl⟩
/-- For each format two bundles that agree on its ports and differ on another. -/
theorem witness_UnreadPortsCannotMatter :
    (∀ op, (Request.zeros op).wellFormed = true ∧ ({ Request.zeros op with bitsIn := 1 } : Request).wellFormed = true ∧
      ({ Request.zeros op with fIn := ⟨1⟩ } : Request).wellFormed = true) ∧
    (Request.zeros 0x0#4).op = Operation.floatToBits.select ∧ Operation.floatToBits.format = .F ∧
    (Request.zeros 0x0#4).fIn = ({ Request.zeros 0x0#4 with bitsIn := 1 } : Request).fIn ∧
    (Request.zeros 0x1#4).op = Operation.bitsToFloat.select ∧ Operation.bitsToFloat.format = .B ∧
    (Request.zeros 0x1#4).bitsIn = ({ Request.zeros 0x1#4 with fIn := ⟨1⟩ } : Request).bitsIn ∧
    (Request.zeros 0x3#4).op = Operation.composeFromLanes.select ∧ Operation.composeFromLanes.format = .L ∧
    (Request.zeros 0x3#4).laneIn = ({ Request.zeros 0x3#4 with bitsIn := 1 } : Request).laneIn ∧
    (Request.zeros 0x5#4).op = Operation.parseHex.select ∧ Operation.parseHex.format = .S ∧
    (Request.zeros 0x5#4).hexIn = ({ Request.zeros 0x5#4 with bitsIn := 1 } : Request).hexIn :=
  ⟨fun op => ⟨zeros_wellFormed op, zeros_wellFormed op, zeros_wellFormed op⟩,
    rfl, rfl, rfl, rfl, rfl, rfl, rfl, rfl, rfl, rfl, rfl, rfl⟩
theorem witness_StringOperandIsTheFirstSlots :
    ((encode (.parseHex eightFs)).wellFormed = true ∧ (encode (.parseHex eightFs)).hexLen ≤ Config.hexInMax) ∧
    Config.hexInMax < ({ Request.zeros 0x5#4 with hexLen := Config.hexInMax + 1 } : Request).hexLen ∧
    ({ Request.zeros 0x5#4 with hexLen := Config.hexInMax + 1 } : Request).op = 0x5#4 :=
  ⟨⟨Laws.EncodePresentable.parseHex _ (by simpa [Instr.wellFormed, presentable] using eightFs_fits), eightFs_fits⟩,
    Nat.lt_succ_self _, rfl⟩
theorem witness_StepRunsTheDecodedInstruction :
    decode (noisy 0x7) = .ok (.lanesToFloat ⟨0x12, 0x34, 0x56, 0x78⟩) ∧
    decodeTableWord 8 0x9 = some (.hexToFloat []) := ⟨rfl, by decide⟩
theorem witness_StepWithNoRequestChangesNothing : State.reset.pending = [] := rfl
theorem witness_ExactlyTheMeaninglessIsRefused : (Request.zeros 0xA#4).wellFormed = true := zeros_wellFormed _
theorem witness_TransactionsHaveNoSideEffect :
    exec (.hexToFloat []) State.reset = .next (answered State.reset .malformedHexInput) ∧
    lawful (Request.zeros 0x4#4) = true := ⟨rfl, zeros_lawful⟩
theorem witness_ErrorLeavesNothingBehind :
    ([] : HexInput).length ≤ Config.hexInMax ∧ Malformed [] ∧
    exec (.floatToBits ⟨0⟩) State.reset = .next (answered State.reset (.bits 0)) := ⟨Nat.zero_le _, .inl rfl, rfl⟩
theorem witness_LawfulRunAnswersEveryRequest :
    lawfulRun { pending := [Request.zeros 0x4#4, Request.zeros 0x4#4], responses := [] } = true := by
  simp [lawfulRun, zeros_lawful]
theorem witness_ResponsesAreAFunctionOfTheRequests :
    decode (Request.zeros 0x4#4) = .ok (.renderHex 0) ∧ ∀ r ∈ [Request.zeros 0x4#4], lawful r = true :=
  ⟨rfl, by simp [zeros_lawful]⟩
theorem witness_EachCallerSeesAPrivateInstance :
    (∀ call ∈ [((1 : Nat), Request.zeros 0x4#4), (2, Request.zeros 0x4#4)], lawful call.2 = true) ∧
    ∃ t, core.run 2 { pending := [Request.zeros 0x4#4, Request.zeros 0x4#4], responses := [] } = .next t :=
  ⟨by simp [zeros_lawful], _, rfl⟩
theorem witness_FirstTransactionAfterResetIsLikeAnyOther : lawful (Request.zeros 0x4#4) = true := zeros_lawful
theorem witness_EveryStepKeepsTheInvariant :
    RunInvariant { pending := [Request.zeros 0x4#4], responses := [] } ∧
    step { pending := [Request.zeros 0x4#4], responses := [] } =
      .next { pending := [], responses := [.hex #v[0x30, 0x78, 0x30, 0x30, 0x30, 0x30, 0x30, 0x30, 0x30, 0x30]] } :=
  ⟨⟨by simp [zeros_wellFormed], by simp⟩, rfl⟩
theorem witness_HexLenWidthIsLeast : Config.hexInMax < 2 ^ Config.hexLenW := hexInMax_lt_two_pow
/-- V1, V13, V14, V15, V16, V20: each row of R55 at a boundary. -/
theorem witness_NumericReadingIsAsTabulated :
    (0x00000000 / 2 ^ 23 % 2 ^ 8 = 0 ∧ 0x00000000 % 2 ^ 23 = 0) ∧
    (0x007FFFFF / 2 ^ 23 % 2 ^ 8 = 0 ∧ 0x007FFFFF % 2 ^ 23 ≠ 0) ∧
    (1 ≤ 0x00800000 / 2 ^ 23 % 2 ^ 8 ∧ 0x7F7FFFFF / 2 ^ 23 % 2 ^ 8 ≤ 254) ∧
    (0x7F800000 / 2 ^ 23 % 2 ^ 8 = 255 ∧ 0x7F800000 % 2 ^ 23 = 0) ∧
    (0x7F800001 / 2 ^ 23 % 2 ^ 8 = 255 ∧ 0x7F800001 % 2 ^ 23 ≠ 0) := by decide

end Sys2Proof.Tests
end

