-- ==== Sys2Proof/Proofs/Scope.lean ====
section
/-! PROOFS. The scope of the model (`00_scope.md`): a step is the decoded instruction's `exec`, and the width of `hex_len`. -/

namespace Sys2Proof

/-- A table word decodes to an instruction exactly when the request it stands for does (log entry 5). -/
theorem decodeTableWord_eq_some {nbits w : Nat} {i : Instr} :
    decodeTableWord nbits w = some i ↔ decode (requestOfTableWord nbits w) = .ok i := by
  unfold decodeTableWord
  cases decode (requestOfTableWord nbits w) <;> simp

/-- R6 in one line: `w` wires can carry every value up to `HEX_IN_MAX` exactly when there are at least `HEX_LEN_W`. -/
theorem hexLenW_le_iff {w : Nat} : Config.hexLenW ≤ w ↔ Config.hexInMax < 2 ^ w := by
  have hne : Config.hexInMax ≠ 0 := Nat.ne_of_gt (Nat.lt_of_lt_of_le (by decide) ten_le_hexInMax)
  exact Nat.log2_lt hne

end Sys2Proof

namespace Sys2Proof.Machine

/-- Where the next pending request decodes, the step is `exec` of its instruction with the request taken off the list. -/
theorem step_eq_exec {s : State} {r : Request} {rest : List Request} {i : Instr} (hp : s.pending = r :: rest)
    (hd : decode r = .ok i) : step s = exec i { s with pending := rest } := by
  simp [step, hp, hd]

/-- With the word of a decodable operation put in front, the step is `exec` of that operation in the state itself. -/
theorem step_withFetchWord {nbits w : Nat} {i : Instr} (h : decodeTableWord nbits w = some i) (s : State) :
    step (s.withFetchWord nbits w) = exec i s :=
  step_eq_exec (withFetchWord_pending s nbits w) (decodeTableWord_eq_some.1 h)

/-- Settles O31: both halves are the step on a pending request that decodes. -/
theorem stepRunsTheDecodedInstruction : Obligations.StepRunsTheDecodedInstruction :=
  ⟨fun _ _ _ _ hd => step_eq_exec rfl hd, fun s _ _ _ h => step_withFetchWord h s⟩

/-- Settles O43, by the equivalence `hexLenW_le_iff`, which makes `HEX_LEN_W` the least width. -/
theorem hexLenWidthIsLeast : Obligations.HexLenWidthIsLeast :=
  ⟨ten_le_hexInMax, hexInMax_lt_two_pow, fun _ => hexLenW_le_iff.2⟩

end Sys2Proof.Machine
end

/-! PROOFS. The laws of the state's values (`10_state.md`): a run's invariant (R21), the round trips of lanes, text and
the bit cast (R22 to R24), and the join after one host channel changed (R17, R100, R103). -/

namespace Sys2Proof

/-- Four lanes are determined by `lanes[0]` to `lanes[3]` (R20). -/
theorem ByteLanes.ext_get {a b : ByteLanes} (h : ∀ k, a.get k = b.get k) : a = b := by
  have h0 : a.lane0 = b.lane0 := h 0
  have h1 : a.lane1 = b.lane1 := h 1
  have h2 : a.lane2 = b.lane2 := h 2
  have h3 : a.lane3 = b.lane3 := h 3
  cases a; cases b; simp_all

end Sys2Proof

namespace Sys2Proof.Machine

open Sys2Proof.Safety

/-! ### What an instruction answers, by its response -/

/-- An instruction that can be presented gives the response that `responseOf` comes to. -/
theorem exec_eq_answered {i : Instr} {r : Response} (hi : i.wellFormed = true) (hr : responseOf i = r) (s : State) :
    exec i s = .next (answered s r) :=
  hr ▸ exec_of_wellFormed hi s

/-- A string that fits and has a value is answered with that value (R64). -/
theorem exec_parseHex_of_eq_some {str : HexInput} {b : BitPattern} (hfit : str.length ≤ Config.hexInMax)
    (hb : parseHex str = some b) (s : State) : exec (.parseHex str) s = .next (answered s (.bits b)) :=
  exec_eq_answered (by simpa [Instr.wellFormed, presentable] using hfit) (by simp [responseOf, hb]) s

/-! ### The invariant of a run: delivered strings are renderings (R21, R61, R62) -/

/-- `HEXCHAR` answers uppercase digits only (R45). -/
theorem isUpperHexDigit_hexChar (n : Nibble) : isUpperHexDigit (hexChar n) = true := by
  revert n; decide

theorem isRendering_renderHex (bits : BitPattern) : isRendering (renderHex bits) = true := by
  simp [isRendering, renderHex, isUpperHexDigit_hexChar]

/-- Every response the block gives is one it can give: the two operations that deliver a string render a pattern. -/
theorem legalResponse_responseOf (i : Instr) : legalResponse (responseOf i) = true := by
  cases i with
  | renderHex bits => exact isRendering_renderHex bits
  | floatToHex f => exact isRendering_renderHex (floatToBits f)
  | parseHex str => cases h : parseHex str <;> simp [responseOf, h, legalResponse]
  | hexToFloat str => cases h : hexToFloat str <;> simp [responseOf, h, legalResponse]
  | _ => rfl

/-- Taking the next request off the list and answering it with a legal response keeps the invariant. -/
theorem runInvariant_answer_next {s : State} {r : Request} {rest : List Request} {resp : Response} (hs : RunInvariant s)
    (hp : s.pending = r :: rest) (hresp : legalResponse resp = true) :
    RunInvariant { pending := rest, responses := s.responses ++ [resp] } := by
  obtain ⟨hpending, hresponses⟩ := hs
  refine ⟨fun q hq => hpending q (hp ▸ List.mem_cons_of_mem r hq), fun x hx => ?_⟩
  rcases List.mem_append.1 hx with hold | hnew
  · exact hresponses x hold
  · exact List.mem_singleton.1 hnew ▸ hresp

/-- Settles O42: a step changes nothing or answers the next request, and every answer is legal. -/
theorem everyStepKeepsTheInvariant : Obligations.EveryStepKeepsTheInvariant := by
  intro s t hs hstep
  obtain ⟨-, rfl⟩ | ⟨r, rest, i, hp, -, rfl⟩ := step_cases hstep
  · exact hs
  · exact runInvariant_answer_next hs hp (legalResponse_responseOf i)

/-! ### Splitter and joiner (R22, R25) -/

@[simp] theorem decomposeToLanes_get (b : BitPattern) (k : Fin 4) : (decomposeToLanes b).get k = laneAt b k := by
  match k with
  | 0 | 1 | 2 | 3 => rfl

/-- The bits `31 - 8k` to `24 - 8k` of a joined word are lane `k` (R25). -/
@[simp] theorem laneAt_composeFromLanes (lanes : ByteLanes) (k : Fin 4) :
    laneAt (composeFromLanes lanes) k = lanes.get k := by
  apply BitVec.eq_of_getLsbD_eq
  intro j hj
  have hlane : (⟨3 - (24 - 8 * k.val + j) / 8, by omega⟩ : Fin 4) = k := Fin.ext (by simp only; omega)
  have hbit : (24 - 8 * k.val + j) % 8 = j := by omega
  rw [laneAt_getLsbD _ _ _ hj, composeFromLanes_getLsbD _ _ (by omega), hlane, hbit]

@[simp] theorem decomposeToLanes_composeFromLanes (lanes : ByteLanes) :
    decomposeToLanes (composeFromLanes lanes) = lanes :=
  ByteLanes.ext_get fun k => by simp

@[simp] theorem composeFromLanes_decomposeToLanes (b : BitPattern) : composeFromLanes (decomposeToLanes b) = b := by
  apply BitVec.eq_of_getLsbD_eq
  intro i hi
  have hbit : 24 - 8 * (3 - i / 8) + i % 8 = i := by omega
  rw [composeFromLanes_getLsbD _ _ hi, decomposeToLanes_get, laneAt_getLsbD _ _ _ (by omega), hbit]

/-- Settles O12: each way is an exact inverse on the values, and neither operation reads the state. -/
theorem laneRoundTripBothWays : Obligations.LaneRoundTripBothWays := fun s =>
  ⟨fun lanes => ⟨composeFromLanes lanes, exec_of_wellFormed rfl s,
      exec_eq_answered rfl (by rw [responseOf, decomposeToLanes_composeFromLanes]) s⟩,
    fun b => ⟨decomposeToLanes b, exec_of_wellFormed rfl s,
      exec_eq_answered rfl (by rw [responseOf, composeFromLanes_decomposeToLanes]) s⟩⟩

/-! ### The bit cast (R23) -/

@[simp] theorem bitsToFloat_floatToBits (f : FloatValue) : bitsToFloat (floatToBits f) = f := rfl

@[simp] theorem floatToBits_bitsToFloat (b : BitPattern) : floatToBits (bitsToFloat b) = b := rfl

/-- Settles O13: the two casts are inverse on the values, and neither operation reads the state. -/
theorem bitCastRoundTripBothWays : Obligations.BitCastRoundTripBothWays := fun s =>
  ⟨fun f => ⟨floatToBits f, exec_of_wellFormed rfl s,
      exec_eq_answered rfl (by rw [responseOf, bitsToFloat_floatToBits]) s⟩,
    fun b => ⟨bitsToFloat b, exec_of_wellFormed rfl s,
      exec_eq_answered rfl (by rw [responseOf, floatToBits_bitsToFloat]) s⟩⟩

/-! ### Parsing a rendering (R24) -/

/-- The numbers of the eight digits `renderHex` writes, the most significant first (R62). -/
def renderedDigits (b : BitPattern) : List Nat := (List.range 8).map fun k => (nibbleAt b k).toNat

/-- The table of R43 reads the character `HEXCHAR` writes as the nibble's own number. -/
@[simp] theorem digitNumber_hexChar (n : Nibble) : digitNumber (hexChar n) = some n.toNat := by
  rw [← digitVal_toNat, digitVal_hexChar, Option.map_some]

/-- A rendering is the prefix `0x` and the eight digits of the pattern (R61, R66). -/
theorem renderHex_spells (b : BitPattern) : Spells (renderHex b).toList (renderedDigits b) := by
  simp [Spells, digitsOf, renderHex, renderedDigits, List.range_succ]

/-- The base-16 digits of a word put together again are the word. -/
theorem numeral_renderedDigits (b : BitPattern) : numeral (renderedDigits b) = b.toNat := by
  have hb := b.isLt
  simp only [renderedDigits, List.range_succ, List.range_zero, List.nil_append, List.cons_append, List.map_cons,
    List.map_nil, numeral, List.length_cons, List.length_nil, nibbleAt_toNat]
  omega

@[simp] theorem parseHex_renderHex (b : BitPattern) : parseHex (renderHex b).toList = some b := by
  rw [parseHex_of_spells (renderHex_spells b), numeral_renderedDigits, if_pos b.isLt, BitVec.ofNat_toNat,
    BitVec.setWidth_eq]

/-- A rendering always fits the slots of `hex_in` (R6). -/
theorem hexString_fits (h : HexString) : h.toList.length ≤ Config.hexInMax := by
  simpa using ten_le_hexInMax

/-- Settles O14: a rendering spells the base-16 digits of its pattern; `"3f8"` is shorter than any rendering. -/
theorem parseOfRenderingIsThePattern : Obligations.ParseOfRenderingIsThePattern := by
  refine ⟨fun b s => ⟨renderHex b, exec_of_wellFormed rfl s,
    exec_parseHex_of_eq_some (hexString_fits _) (parseHex_renderHex b) s⟩, _, _, _, rfl, rfl, rfl, fun s => ⟨?_, ?_, ?_⟩⟩
  · exact exec_parseHex_of_eq_some (le_trans (by decide) ten_le_hexInMax) (by decide) s
  · exact exec_eq_answered rfl (by decide) s
  · decide

/-! ### One host channel changes (R17, R100, R103) -/

/-- Each lane has its channel (R103). -/
theorem HostChannel.lane_surjective : Function.Surjective HostChannel.lane
  | 0 => ⟨.msb, rfl⟩
  | 1 => ⟨.byte3, rfl⟩
  | 2 => ⟨.byte2, rfl⟩
  | 3 => ⟨.lsb, rfl⟩

/-- Different channels carry different lanes (R103). -/
theorem HostChannel.lane_injective : Function.Injective HostChannel.lane := by
  intro a b; cases a <;> cases b <;> decide

/-- Latching one channel writes its own lane and no other, by the number of the lane. -/
theorem latch_get_lane (channel : HostChannel) (value : Byte) (lanes : ByteLanes) (k : Fin 4) :
    (channel.latch value lanes).get k = if k = channel.lane then value else lanes.get k := by
  obtain ⟨other, rfl⟩ := HostChannel.lane_surjective k
  simp only [latch_get, HostChannel.lane_injective.eq_iff]

/-- The join after one channel changed, bit by bit: the channel's eight bits are the new byte's, the others stay. -/
theorem composeFromLanes_latch_getLsbD (channel : HostChannel) (value : Byte) (lanes : ByteLanes) {i : Nat}
    (hi : i < 32) : (composeFromLanes (channel.latch value lanes)).getLsbD i =
      if i / 8 = 3 - channel.lane.val then value.getLsbD (i % 8) else (composeFromLanes lanes).getLsbD i := by
  have hplace : (⟨3 - i / 8, by omega⟩ : Fin 4) = channel.lane ↔ i / 8 = 3 - channel.lane.val := by
    rw [Fin.ext_iff]; simp only; omega
  rw [composeFromLanes_getLsbD _ _ hi, composeFromLanes_getLsbD _ _ hi, latch_get_lane, apply_ite (BitVec.getLsbD · _)]
  simp only [hplace]

/-- Settles O46: the join reads the four lanes presented, and the latch changed one of them. -/
theorem oneChannelChangesItsEightBits : Obligations.OneChannelChangesItsEightBits :=
  fun channel value lanes s => ⟨composeFromLanes lanes, composeFromLanes (channel.latch value lanes),
    exec_of_wellFormed rfl s, exec_of_wellFormed rfl s, fun _ => composeFromLanes_latch_getLsbD channel value lanes⟩

end Sys2Proof.Machine

/-! PROOFS. Order and purity (`20_memory.md`): the order of lanes and of digits (R25, R28), and one function from request
to response that answers every run (R33, R35). -/

namespace Sys2Proof.Machine

open Sys2Proof.Safety

/-! ### The order of lanes (R25) -/

/-- Settles O23: `lanes[k]` is `b[31 - 8k : 24 - 8k]` of the word split, and of the word joined. -/
theorem laneBitsAreTheWordsBits : Obligations.LaneBitsAreTheWordsBits := by
  constructor
  · intro b s
    refine ⟨decomposeToLanes b, exec_of_wellFormed rfl s, fun k j hj => ?_⟩
    rw [decomposeToLanes_get, laneAt_getLsbD _ _ _ hj]
  · intro lanes s
    refine ⟨composeFromLanes lanes, exec_of_wellFormed rfl s, fun k j hj => ?_⟩
    rw [← laneAt_composeFromLanes, laneAt_getLsbD _ _ _ hj]

/-! ### The order of digits (R28, R62) -/

/-- Nibble `m` of lane `k`, the upper one first, is nibble `2k + m` of the word. -/
theorem laneAt_extractNibble (b : BitPattern) {k m : Nat} (hk : k < 4) (hm : m < 2) :
    (laneAt b k).extractLsb' (4 - 4 * m) 4 = nibbleAt b (2 * k + m) := by
  apply BitVec.eq_of_getLsbD_eq
  intro j hj
  have hlane : 4 - 4 * m + j < 8 := by omega
  have hbit : 24 - 8 * k + (4 - 4 * m + j) = 28 - 4 * (2 * k + m) + j := by omega
  simp only [nibbleAt, BitVec.getLsbD_extractLsb', laneAt_getLsbD b k _ hlane, hbit]

/-- Character `2 + k` of a rendering is the digit of the word's nibble `k` (R28). -/
theorem renderHex_getElem (b : BitPattern) {k : Nat} (hk : k < 8) :
    (renderHex b)[2 + k] = hexChar (nibbleAt b k) := by
  match k with
  | 0 | 1 | 2 | 3 | 4 | 5 | 6 | 7 => rfl

/-- Settles O22: characters `2 + 2k` and `3 + 2k` render the nibbles `2k` and `2k + 1`, which are those of lane `k`. -/
theorem hexDigitOrderIsLaneOrder : Obligations.HexDigitOrderIsLaneOrder := by
  intro b s
  refine ⟨decomposeToLanes b, renderHex b, exec_of_wellFormed rfl s, exec_of_wellFormed rfl s, fun k hk => ?_⟩
  have hupper := laneAt_extractNibble b hk (m := 0) (by decide)
  have hlower := laneAt_extractNibble b hk (m := 1) (by decide)
  have hplace : 3 + 2 * k = 2 + (2 * k + 1) := by omega
  simp only [decomposeToLanes_get, hplace]
  exact ⟨hupper ▸ renderHex_getElem b (by omega), hlower ▸ renderHex_getElem b (by omega)⟩

/-! ### One function from request to response (R33, R35) -/

/-- The response to a request. A request without a meaning gets none (R92): its value here is arbitrary. -/
def responseTo (r : Request) : Response :=
  match decode r with
  | .ok i => responseOf i
  | .error _ => .malformedHexInput

theorem responseTo_of_decode {r : Request} {i : Instr} (h : decode r = .ok i) : responseTo r = responseOf i := by
  simp [responseTo, h]

/-- Every run of lawful requests answers each of them with its own response, whatever was answered before (R35). -/
theorem run_of_lawful {requests : List Request} (h : ∀ r ∈ requests, lawful r = true) (done : List Response) :
    core.run requests.length { pending := requests, responses := done } =
      .next { pending := [], responses := done ++ requests.map responseTo } := by
  induction requests generalizing done with
  | nil => simp [Host.Core.run]
  | cons r rest ih =>
    obtain ⟨i, hi⟩ := decode_of_lawful (h r List.mem_cons_self)
    rw [List.length_cons, run_cons hi, ih fun q hq => h q (List.mem_cons_of_mem r hq), List.map_cons,
      responseTo_of_decode hi, List.append_assoc, List.singleton_append]

/-- Settles O38, by the function `responseTo`: what decodes is presentable and gets `responseOf` in every state. -/
theorem responsesAreAFunctionOfTheRequests : Obligations.ResponsesAreAFunctionOfTheRequests := by
  refine ⟨responseTo, fun r i s hd => ?_, fun _ done h => run_of_lawful h done⟩
  rw [responseTo_of_decode hd]
  exact exec_of_wellFormed (decode_wellFormed hd) s

/-- Settles O35: an answer is `responseOf` of the instruction, whatever the state; `n` equal requests are a lawful run. -/
theorem transactionsHaveNoSideEffect : Obligations.TransactionsHaveNoSideEffect := by
  constructor
  · intro i s t h
    obtain ⟨hi, ht⟩ := exec_next_iff.1 h
    exact ⟨responseOf i, ht, exec_of_wellFormed hi⟩
  · intro r n hr
    have hall : ∀ q ∈ List.replicate n r, lawful q = true := fun q hq => List.eq_of_mem_replicate hq ▸ hr
    exact ⟨responseTo r, fun done => by simpa using run_of_lawful hall done⟩

end Sys2Proof.Machine

/-! PROOFS. The encoding (`30_encoding.md`): what `decode` reads for each operation, that it undoes `encode`, the
operation map, the ports that do not matter, the string operand, and the reserved select codes (R37 to R42). -/

namespace Sys2Proof

/-! ### What the decoder reads (R39 to R42) -/

/-- The instruction of an operation with the operand that its format reads off the ports (R38, R41); the operation is
given, whatever stands on `op`. -/
def Operation.readPorts (o : Operation) (r : Request) : Except DecodeError Instr :=
  match o with
  | .floatToBits => .ok (.floatToBits r.fIn)
  | .bitsToFloat => .ok (.bitsToFloat r.bitsIn)
  | .decomposeToLanes => .ok (.decomposeToLanes r.bitsIn)
  | .composeFromLanes => .ok (.composeFromLanes r.laneIn)
  | .renderHex => .ok (.renderHex r.bitsIn)
  | .parseHex => r.stringOperand.map .parseHex
  | .floatToLanes => .ok (.floatToLanes r.fIn)
  | .lanesToFloat => .ok (.lanesToFloat r.laneIn)
  | .floatToHex => .ok (.floatToHex r.fIn)
  | .hexToFloat => r.stringOperand.map .hexToFloat

/-- Under the select code of an operation the decoder reads that operation's ports and no other. -/
theorem decode_of_select {r : Request} {o : Operation} (h : r.op = o.select) : decode r = o.readPorts r := by
  rw [decode, h, ofSelect_select]
  cases o <;> rfl

theorem decode_parseHex {r : Request} (h : r.op = 0x5#4) : decode r = r.stringOperand.map .parseHex :=
  decode_of_select (o := .parseHex) h

theorem decode_hexToFloat {r : Request} (h : r.op = 0x9#4) : decode r = r.stringOperand.map .hexToFloat :=
  decode_of_select (o := .hexToFloat) h

/-- A reserved select code has no instruction, whatever stands on the operand ports (R40). -/
theorem decode_of_reserved {r : Request} (h : 10 ≤ r.op.toNat) : decode r = .error (.reservedSelect r.op) := by
  simp [decode, ofSelect_eq_none.2 h]

/-- The one reason a string operand is refused for (R42). -/
theorem stringOperand_error {r : Request} {e : DecodeError} (h : r.stringOperand = .error e) :
    e = .hexLenBeyondSlots r.hexLen := by
  unfold Request.stringOperand at h
  split at h
  · cases h
  · cases h; rfl

/-- A `hex_len` beyond `HEX_IN_MAX` names slots that do not exist (R42, R92 b). -/
theorem stringOperand_of_hexInMax_lt {r : Request} (h : Config.hexInMax < r.hexLen) :
    r.stringOperand = .error (.hexLenBeyondSlots r.hexLen) :=
  if_neg fun hfit => Nat.not_le.2 h hfit.1

/-- Once the operation is known, only a string operand can be refused. -/
theorem readPorts_error {o : Operation} {r : Request} {e : DecodeError} (h : o.readPorts r = .error e) :
    o.format = .S ∧ e = .hexLenBeyondSlots r.hexLen := by
  cases o with
  | parseHex | hexToFloat =>
    cases hs : r.stringOperand <;> simp [Operation.readPorts, hs, Except.map] at h
    subst h
    exact ⟨rfl, stringOperand_error hs⟩
  | _ => cases h

/-- All the decoder refuses: a reserved select code, or the `hex_len` of a format-S operation. -/
theorem decode_error_cases {r : Request} {e : DecodeError} (h : decode r = .error e) :
    (10 ≤ r.op.toNat ∧ e = .reservedSelect r.op) ∨
    ∃ o : Operation, r.op = o.select ∧ o.format = .S ∧ e = .hexLenBeyondSlots r.hexLen := by
  cases ho : Operation.ofSelect r.op with
  | none =>
    have hop := ofSelect_eq_none.1 ho
    rw [decode_of_reserved hop] at h
    cases h
    exact .inl ⟨hop, rfl⟩
  | some o =>
    have hop := ofSelect_eq_some.1 ho
    rw [decode_of_select hop] at h
    exact .inr ⟨o, hop, readPorts_error h⟩

/-- All that decodes: the instruction that the operation of the select code reads off its ports. -/
theorem decode_eq_ok_iff {r : Request} {i : Instr} :
    decode r = .ok i ↔ ∃ o : Operation, r.op = o.select ∧ o.readPorts r = .ok i := by
  constructor
  · intro h
    obtain ⟨hop, -⟩ := decode_ok_cases h
    exact ⟨i.operation, hop, decode_of_select hop ▸ h⟩
  · rintro ⟨o, hop, h⟩
    rw [decode_of_select hop, h]

/-- The ten operations, in the order of their codes (R39). -/
theorem exists_operation_iff {P : Operation → Prop} : (∃ o, P o) ↔
    P .floatToBits ∨ P .bitsToFloat ∨ P .decomposeToLanes ∨ P .composeFromLanes ∨ P .renderHex ∨ P .parseHex ∨
      P .floatToLanes ∨ P .lanesToFloat ∨ P .floatToHex ∨ P .hexToFloat := by
  constructor
  · rintro ⟨o, h⟩
    cases o <;> simp only [h, true_or, or_true]
  · rintro (h | h | h | h | h | h | h | h | h | h) <;> exact ⟨_, h⟩

/-! ### Encoding and decoding (R37 to R39) -/

/-- The bundle that presents a presentable instruction is one of this hardware (R38). -/
theorem encode_wellFormed : ∀ i, Laws.EncodePresentable.Statement i
  | .floatToBits f => Laws.EncodePresentable.floatToBits f
  | .bitsToFloat bits => Laws.EncodePresentable.bitsToFloat bits
  | .decomposeToLanes bits => Laws.EncodePresentable.decomposeToLanes bits
  | .composeFromLanes lanes => Laws.EncodePresentable.composeFromLanes lanes
  | .renderHex bits => Laws.EncodePresentable.renderHex bits
  | .parseHex str => Laws.EncodePresentable.parseHex str
  | .floatToLanes f => Laws.EncodePresentable.floatToLanes f
  | .lanesToFloat lanes => Laws.EncodePresentable.lanesToFloat lanes
  | .floatToHex f => Laws.EncodePresentable.floatToHex f
  | .hexToFloat str => Laws.EncodePresentable.hexToFloat str

/-- Decoding undoes encoding: the operand stands on the ports that the operation reads. -/
theorem decode_encode {i : Instr} (h : i.wellFormed = true) : decode (encode i) = .ok i := by
  rw [decode_of_select (encode_op i)]
  cases i with
  | parseHex str | hexToFloat str =>
    have hfit : str.length ≤ Config.hexInMax := by simpa [Instr.wellFormed, presentable] using h
    exact congrArg (Except.map _) (stringOperand_withString _ hfit)
  | _ => rfl

/-- Settles O24: `decode_encode`, and the bundle is one of this hardware. -/
theorem decodeOfEncodeIsTheInstruction : Obligations.DecodeOfEncodeIsTheInstruction :=
  fun i h => ⟨decode_encode h, encode_wellFormed i h⟩

/-- Settles O25: what decodes is presentable, so its own encoding decodes to it. -/
theorem decodedInstructionIsPresentable : Obligations.DecodedInstructionIsPresentable := by
  intro r i _ hd
  have hi := decode_wellFormed hd
  obtain ⟨hop, -⟩ := decode_ok_cases hd
  exact ⟨hi, hop, (encode_op i).trans hop.symm, decode_encode hi⟩

/-- Settles O30, by evaluating the decoder on the five words. -/
theorem tableWordsDecode : Obligations.TableWordsDecode :=
  ⟨by decide, by decide, by decide, by decide, by decide⟩

/-! ### The string operand (R42) -/

/-- The string operand of a bundle of this hardware whose `hex_len` names existing slots. -/
theorem stringOperand_of_fits {r : Request} (h : r.wellFormed = true) (hfit : r.hexLen ≤ Config.hexInMax) :
    r.stringOperand = .ok (r.hexIn.take r.hexLen) := by
  rw [stringOperand_of_wellFormed h, if_pos hfit]

/-- A bundle of this hardware lists every slot that a `hex_len` up to `HEX_IN_MAX` names. -/
theorem length_take_hexLen {r : Request} (h : r.wellFormed = true) (hfit : r.hexLen ≤ Config.hexInMax) :
    (r.hexIn.take r.hexLen).length = r.hexLen := by
  simp only [Request.wellFormed, Bool.and_eq_true, decide_eq_true_eq] at h
  simp [h.1, hfit]

/-- Settles O29: the string is `hex_in` cut at `hex_len`; beyond the slots the string operand is refused. -/
theorem stringOperandIsTheFirstSlots : Obligations.StringOperandIsTheFirstSlots := by
  constructor
  · intro r hr hfit
    have hs := stringOperand_of_fits hr hfit
    refine ⟨r.hexIn.take r.hexLen, length_take_hexLen hr hfit, fun i hi => List.getElem?_take_of_lt hi, ?_, ?_⟩
    · intro hop; rw [decode_parseHex hop, hs]; rfl
    · intro hop; rw [decode_hexToFloat hop, hs]; rfl
  · intro r hlong hop
    have hs := stringOperand_of_hexInMax_lt hlong
    rcases hop with hop | hop
    · rw [decode_parseHex hop, hs]; rfl
    · rw [decode_hexToFloat hop, hs]; rfl

/-- Slots from `hex_len` on are not read (R42). -/
theorem stringOperand_congr {r r' : Request} (hr : r.wellFormed = true) (hr' : r'.wellFormed = true)
    (hlen : r.hexLen = r'.hexLen) (hslots : ∀ i < r.hexLen, r.hexIn[i]? = r'.hexIn[i]?) :
    r.stringOperand = r'.stringOperand := by
  have htake : r.hexIn.take r.hexLen = r'.hexIn.take r.hexLen := by
    apply List.ext_getElem?
    intro i
    by_cases hi : i < r.hexLen
    · simp [List.getElem?_take_of_lt hi, hslots i hi]
    · simp [hi]
  rw [stringOperand_of_wellFormed hr, stringOperand_of_wellFormed hr', ← hlen, htake]

end Sys2Proof

namespace Sys2Proof.Machine

/-! ### The operation map (R39) -/

/-- An instruction drives the result port of its row with `err = 0`, or it may set `err` and answers the error. -/
theorem responseOf_port_or_error (i : Instr) :
    (responseOf i).port = some i.operation.drives ∧ (responseOf i).err = 0#1 ∨
      i.operation.canSetErr = true ∧ responseOf i = .malformedHexInput := by
  cases i with
  | parseHex str =>
    simp only [responseOf]
    cases parseHex str with
    | none => exact .inr ⟨rfl, rfl⟩
    | some b => exact .inl ⟨rfl, rfl⟩
  | hexToFloat str =>
    simp only [responseOf]
    cases hexToFloat str with
    | none => exact .inr ⟨rfl, rfl⟩
    | some f => exact .inl ⟨rfl, rfl⟩
  | _ => exact .inl ⟨rfl, rfl⟩

/-- Settles O26: the rows are the ten ways to decode, and every answer is `responseOf` of the instruction. -/
theorem operationMapIsAsTabulated : Obligations.OperationMapIsAsTabulated := by
  refine ⟨fun r hr hfit i => ?_, fun i s hi => ⟨responseOf i, exec_of_wellFormed hi s, responseOf_port_or_error i⟩⟩
  rw [decode_eq_ok_iff, exists_operation_iff]
  simp only [Operation.select, Operation.readPorts, stringOperand_of_fits hr hfit, Except.map, Except.ok.injEq,
    eq_comm (b := i)]

/-! ### Ports that do not matter (R41) -/

/-- A step depends on the next request only through what it decodes to. -/
theorem step_congr {r r' : Request} (h : decode r = decode r') (rest : List Request) (done : List Response) :
    step { pending := r :: rest, responses := done } = step { pending := r' :: rest, responses := done } := by
  simp only [step, h]

/-- Settles O28: the two bundles decode alike, since the ports of the format are all that is read. -/
theorem unreadPortsCannotMatter : Obligations.UnreadPortsCannotMatter := by
  intro o r r' rest done hop hop' hr hr' hports
  refine step_congr ?_ rest done
  rw [decode_of_select hop, decode_of_select hop']
  cases o with
  | parseHex | hexToFloat =>
    obtain ⟨hlen, hslots⟩ := hports
    exact congrArg (Except.map _) (stringOperand_congr hr hr' hlen hslots)
  | _ => simpa [Operation.readPorts, Operation.format] using hports

/-! ### Reserved select codes (R40) -/

/-- The refusal of a pending request tells why it does not decode. -/
theorem step_eq_refused_iff {r : Request} {rest : List Request} {done : List Response} {why : Refusal} :
    step { pending := r :: rest, responses := done } = .refused why ↔ ∃ e, decode r = .error e ∧ refusalOf e = why := by
  cases hd : decode r with
  | ok i => simp [step_of_decode hd]
  | error e => simp [step, hd]

/-- Settles O33: the decoder refuses a reserved code before it reads any operand, and names no other code as reserved. -/
theorem reservedSelectIsRefused : Obligations.ReservedSelectIsRefused := by
  intro r rest done
  rw [step_eq_refused_iff]
  constructor
  · exact fun h => ⟨_, decode_of_reserved h, rfl⟩
  · rintro ⟨e, hd, he⟩
    obtain ⟨hop, -⟩ | ⟨o, -, -, rfl⟩ := decode_error_cases hd
    · exact hop
    · cases he

end Sys2Proof.Machine

/-! PROOFS. The bit cast and the numeric reading (`40_bitcast.md`): every bit kept (R50, R51), and the table of binary32
(R55), which no operation reads. -/

namespace Sys2Proof.Machine

open Sys2Proof.Safety

/-! ### The bit cast (R50, R51) -/

/-- Settles O1: the decoder reads `f_in`, and the response is the pattern of the operand. -/
theorem floatToBitsKeepsEveryBit : Obligations.FloatToBitsKeepsEveryBit :=
  ⟨fun _ hop => decode_of_select (o := .floatToBits) hop,
    fun f s => ⟨floatToBits f, exec_of_wellFormed rfl s, fun _ _ => rfl, rfl⟩⟩

/-- Settles O2: the decoder reads `bits_in`, and the response is the float with the operand as its pattern. -/
theorem bitsToFloatKeepsEveryBit : Obligations.BitsToFloatKeepsEveryBit :=
  ⟨fun _ hop => decode_of_select (o := .bitsToFloat) hop,
    fun b s => ⟨bitsToFloat b, exec_of_wellFormed rfl s, fun _ _ => rfl, rfl⟩⟩

/-! ### The fields of a FloatValue, as numbers (R55) -/

theorem floatExponent_toNat (f : FloatValue) : (floatExponent f).toNat = f.pattern.toNat / 2 ^ 23 % 2 ^ 8 := by
  simp [floatExponent, BitVec.extractLsb'_toNat, Nat.shiftRight_eq_div_pow]

theorem floatFraction_toNat (f : FloatValue) : (floatFraction f).toNat = f.pattern.toNat % 2 ^ 23 := by
  simp [floatFraction, BitVec.extractLsb'_toNat]

/-- The quiet bit of the fraction is bit 22 of the pattern. -/
theorem floatFraction_getLsbD_22 (f : FloatValue) : (floatFraction f).getLsbD 22 = f.pattern.getLsbD 22 := by
  simp [floatFraction]

/-- The class column of R55, with the fields read as numbers. -/
theorem floatClass_eq (f : FloatValue) :
    floatClass f =
      if (floatExponent f).toNat = 0 then if (floatFraction f).toNat = 0 then .zero else .subnormal
      else if (floatExponent f).toNat = 255 then
        if (floatFraction f).toNat = 0 then .infinity
        else if f.pattern.getLsbD 22 then .quietNaN else .signallingNaN
      else .normal := by
  simp only [floatClass, floatFraction_getLsbD_22, ← BitVec.toNat_inj, BitVec.toNat_ofNat]

/-! ### The value of a FloatValue (R55) -/

/-- `(-1)^s`. -/
def signFactor (f : FloatValue) : Rat := if floatSign f then -1 else 1

theorem floatUnits_of_exponent_zero {f : FloatValue} (h : (floatExponent f).toNat = 0) :
    floatUnits f = (floatFraction f).toNat :=
  if_pos (BitVec.eq_of_toNat_eq h)

theorem floatUnits_of_exponent_pos {f : FloatValue} (h : 1 ≤ (floatExponent f).toNat) :
    floatUnits f = (2 ^ 23 + (floatFraction f).toNat) * 2 ^ ((floatExponent f).toNat - 1) :=
  if_neg fun hzero => by simp [hzero] at h

/-- Infinities and NaNs denote no number. -/
theorem floatNumber_of_exponent_255 {f : FloatValue} (h : (floatExponent f).toNat = 255) : floatNumber f = none :=
  if_pos (BitVec.eq_of_toNat_eq h)

/-- The signed units of the model are the sign times the units. -/
theorem signed_floatUnits (f : FloatValue) :
    ((if floatSign f then -(floatUnits f : Int) else (floatUnits f : Int) : Int) : Rat) = signFactor f * floatUnits f := by
  cases h : floatSign f <;> simp [signFactor, h]

/-- A finite value is its sign times its units of `2^(-149)`. -/
theorem floatNumber_of_finite {f : FloatValue} (h : (floatExponent f).toNat ≠ 255) :
    floatNumber f = some (signFactor f * floatUnits f * (2 : Rat) ^ (-149 : Int)) := by
  have hexp : floatExponent f ≠ 255#8 := fun h255 => h (by rw [h255]; rfl)
  have hunit : ((2 ^ 149 : Nat) : Rat) = (2 : Rat) ^ (149 : Int) := by rw [zpow_ofNat, Nat.cast_pow, Nat.cast_ofNat]
  simp only [floatNumber, if_neg hexp, Rat.mkRat_eq_div, signed_floatUnits, hunit, zpow_neg, div_eq_mul_inv]

/-- With the hidden bit made explicit, the units of a normal value are its significand scaled by its biased exponent. -/
theorem normal_units_scaled {e : Nat} (he : 1 ≤ e) (m : Nat) :
    (((2 ^ 23 + m) * 2 ^ (e - 1) : Nat) : Rat) * (2 : Rat) ^ (-149 : Int) =
      (1 + (m : Rat) / 2 ^ 23) * (2 : Rat) ^ ((e : Int) - 127) := by
  have hscale : (2 : Rat) ^ ((e : Int) - 127) = 2 ^ 23 * 2 ^ (e - 1) * (2 : Rat) ^ (-149 : Int) := by
    rw [← pow_add, ← zpow_natCast, ← zpow_add₀ two_ne_zero]
    congr 1
    omega
  rw [hscale]
  push_cast
  ring

/-- Settles O44: the class by the fields as numbers, the value by the units of `2^(-149)`, row by row of R55. -/
theorem numericReadingIsAsTabulated : Obligations.NumericReadingIsAsTabulated := by
  intro f sign e m
  have hE : (floatExponent f).toNat = e := floatExponent_toNat f
  have hM : (floatFraction f).toNat = m := floatFraction_toNat f
  have hclass := floatClass_eq f
  rw [hE, hM] at hclass
  refine ⟨fun he hm => ⟨?_, ?_⟩, fun he hm => ⟨?_, ?_⟩, fun hlo hhi => ⟨?_, ?_⟩, fun he hm => ⟨?_, ?_⟩,
    fun he hm => ⟨?_, ?_⟩⟩
  · simp [hclass, he, hm]
  · rw [floatNumber_of_finite (by omega), floatUnits_of_exponent_zero (hE.trans he), hM, hm]
    simp
  · simp [hclass, he, hm]
  · rw [floatNumber_of_finite (by omega), floatUnits_of_exponent_zero (hE.trans he), hM]
    rfl
  · rw [hclass, if_neg (by omega), if_neg (by omega)]
  · rw [floatNumber_of_finite (by omega), floatUnits_of_exponent_pos (hE.symm ▸ hlo), hE, hM, mul_assoc,
      normal_units_scaled hlo, ← mul_assoc]
    rfl
  · simp [hclass, he, hm]
  · exact floatNumber_of_exponent_255 (hE.trans he)
  · simp [hclass, he, hm]
  · exact floatNumber_of_exponent_255 (hE.trans he)

end Sys2Proof.Machine

/-! PROOFS. The splitter and the joiner (`41_lanes.md`): the bytes of a word as numbers (R56), and their concatenation
(R57, R59). -/

namespace Sys2Proof.Machine

open Sys2Proof.Safety

/-- Nothing stands above the most significant byte of a word, so lane 0 needs no reduction. -/
theorem laneAt_zero_toNat (b : BitPattern) : (laneAt b 0).toNat = b.toNat / 2 ^ 24 := by
  have hbyte : b.toNat / 2 ^ 24 < 2 ^ 8 := Nat.div_lt_of_lt_mul b.isLt
  rw [laneAt_toNat, Nat.mod_eq_of_lt hbyte]

/-- Nothing stands below the least significant byte of a word, so lane 3 needs no shift. -/
theorem laneAt_three_toNat (b : BitPattern) : (laneAt b 3).toNat = b.toNat % 2 ^ 8 := by
  rw [laneAt_toNat, Nat.pow_zero, Nat.div_one]

/-- Settles O3: the decoder reads `bits_in`, and lane `k` of the response is byte `k` of the word from the top. -/
theorem decomposeToLanesSplitsBigEndian : Obligations.DecomposeToLanesSplitsBigEndian :=
  ⟨fun _ hop => decode_of_select (o := .decomposeToLanes) hop,
    fun b s => ⟨decomposeToLanes b, exec_of_wellFormed rfl s, laneAt_zero_toNat b, laneAt_toNat b 1, laneAt_toNat b 2,
      laneAt_three_toNat b, rfl⟩⟩

/-- Settles O4: the decoder reads `lane_in`, and the shifted lanes do not overlap, so joining them concatenates them. -/
theorem composeFromLanesJoinsBigEndian : Obligations.ComposeFromLanesJoinsBigEndian :=
  ⟨fun _ hop => decode_of_select (o := .composeFromLanes) hop,
    fun lanes s => ⟨composeFromLanes lanes, exec_of_wellFormed rfl s, composeFromLanes_eq_append lanes,
      composeFromLanes_toNat lanes, rfl⟩⟩

end Sys2Proof.Machine

/-! PROOFS. Text (`42_hex.md`): the digits `renderHex` writes (R61, R62), what `parseHex` answers and that the form in
32-bit hardware arithmetic is the same function (R64), and that only the numbers of the digits count: not their case
(R65), not the prefix (R66), not leading zeros (R70). -/

namespace Sys2Proof.Machine

open Sys2Proof.Safety

/-! ### Rendering (R61, R62) -/

/-- Nibble `k` of a word is its base-16 digit of weight `16^(7-k)` (R28). -/
theorem nibbleAt_toNat_hex (b : BitPattern) {k : Nat} (hk : k < 8) :
    (nibbleAt b k).toNat = b.toNat / 16 ^ (7 - k) % 16 := by
  have hweight : 28 - 4 * k = 4 * (7 - k) := by omega
  rw [nibbleAt_toNat, hweight, Nat.pow_mul]
  rfl

/-- Settles O5: character `2 + k` is `HEXCHAR` of nibble `k`, which is the base-16 digit of its place. -/
theorem renderHexWritesEightUppercaseDigits : Obligations.RenderHexWritesEightUppercaseDigits := by
  refine ⟨fun _ hop => decode_of_select (o := .renderHex) hop,
    fun b s => ⟨renderHex b, exec_of_wellFormed rfl s, rfl, rfl, fun k hk => ?_, rfl⟩⟩
  rw [renderHex_getElem b hk, hexChar_toNat, nibbleAt_toNat_hex b hk]

/-! ### What the two parsers answer, by the value of `parseHex` (R64, R71, R76) -/

/-- All that `parseHex` can do on the ports: value or error for a string that fits, a refusal for a longer one. -/
theorem exec_parseHex_eq (str : HexInput) (s : State) :
    exec (.parseHex str) s =
      if str.length ≤ Config.hexInMax then .next (answered s (((parseHex str).map .bits).getD .malformedHexInput))
      else .refused (.stringNotPresentable str.length) :=
  answerString_eq str _ s

/-- Two strings of one length that parse alike are answered, or refused, alike. -/
theorem exec_parseHex_congr {a b : HexInput} (hlen : a.length = b.length) (h : parseHex a = parseHex b) (s : State) :
    exec (.parseHex a) s = exec (.parseHex b) s := by
  rw [exec_parseHex_eq, exec_parseHex_eq, hlen, h]

/-- Two strings that fit and parse alike are answered alike, whatever their lengths. -/
theorem exec_parseHex_congr_of_fits {a b : HexInput} (ha : a.length ≤ Config.hexInMax) (hb : b.length ≤ Config.hexInMax)
    (h : parseHex a = parseHex b) (s : State) : exec (.parseHex a) s = exec (.parseHex b) s := by
  rw [exec_parseHex_eq, exec_parseHex_eq, if_pos ha, if_pos hb, h]

/-- A string that fits and has no value is answered with the error (R71). -/
theorem exec_parseHex_of_eq_none {str : HexInput} (hfit : str.length ≤ Config.hexInMax) (hnone : parseHex str = none)
    (s : State) : exec (.parseHex str) s = .next (answered s .malformedHexInput) := by
  rw [exec_parseHex_eq, if_pos hfit, hnone]
  rfl

/-- Where the inner `parseHex` raises, `hexToFloat` raises (R78). -/
theorem exec_hexToFloat_of_eq_none {str : HexInput} (hfit : str.length ≤ Config.hexInMax) (hnone : parseHex str = none)
    (s : State) : exec (.hexToFloat str) s = .next (answered s .malformedHexInput) :=
  exec_eq_answered (by simpa [Instr.wellFormed, presentable] using hfit) (by simp [responseOf, hexToFloat, hnone]) s

/-- The value of a row of digits that fits a word. -/
theorem parseHex_of_numeral_lt {str : HexInput} {ds : List Nat} (h : Spells str ds) (hlt : numeral ds < 2 ^ 32) :
    parseHex str = some (BitVec.ofNat 32 (numeral ds)) := by
  rw [parseHex_of_spells h, if_pos hlt]

/-- A row of digits whose value is `2^32` or more has no value (R69). -/
theorem parseHex_of_numeral_ge {str : HexInput} {ds : List Nat} (h : Spells str ds) (hge : 2 ^ 32 ≤ numeral ds) :
    parseHex str = none := by
  rw [parseHex_of_spells h, if_neg (Nat.not_lt.2 hge)]

/-- Each of the three causes of R81 leaves `parseHex` without a value. -/
theorem parseHex_of_malformed {str : HexInput} (h : Malformed str) : parseHex str = none := by
  obtain hempty | hbad | ⟨ds, hds, hge⟩ := h
  · exact parseHex_no_digits hempty
  · exact parseHex_non_hex hbad
  · exact parseHex_of_numeral_ge hds hge

/-- A row of digits that fits a word is answered with the word of its value. -/
theorem exec_parseHex_of_numeral_lt {str : HexInput} {ds : List Nat} (hfit : str.length ≤ Config.hexInMax)
    (h : Spells str ds) (hlt : numeral ds < 2 ^ 32) (s : State) :
    ∃ b : BitPattern, exec (.parseHex str) s = .next (answered s (.bits b)) ∧ b.toNat = numeral ds :=
  ⟨_, exec_parseHex_of_eq_some hfit (parseHex_of_numeral_lt h hlt) s,
    (BitVec.toNat_ofNat _ _).trans (Nat.mod_eq_of_lt hlt)⟩

/-! ### The form in 32-bit hardware arithmetic (R64) -/

/-- Shifting one more digit into the accumulator is the loop's `16 * v + d`, modulo `2^32`. -/
theorem shiftDigitIn_ofNat (v : Nat) (d : Nibble) :
    (BitVec.ofNat 32 v).extractLsb' 0 28 ++ d = BitVec.ofNat 32 (16 * v + d.toNat) := by
  apply BitVec.eq_of_toNat_eq
  have hd := d.isLt
  rw [BitVec.toNat_append, ← Nat.shiftLeft_add_eq_or_of_lt hd, Nat.shiftLeft_eq, BitVec.extractLsb'_toNat]
  simp only [BitVec.toNat_ofNat, Nat.shiftRight_zero]
  omega

/-- The overflow bit after one more digit: set before, or the digit pushes a nonzero nibble out at the top. -/
theorem overflow_or_topNibble (v : Nat) (d : Nibble) :
    (decide (2 ^ 32 ≤ v) || (BitVec.ofNat 32 v).extractLsb' 28 4 != 0#4) = decide (2 ^ 32 ≤ 16 * v + d.toNat) := by
  have hd := d.isLt
  have htop : (BitVec.ofNat 32 v).extractLsb' 28 4 = 0#4 ↔ v % 2 ^ 32 / 2 ^ 28 = 0 := by
    rw [← BitVec.toNat_inj, BitVec.extractLsb'_toNat, BitVec.toNat_ofNat, Nat.shiftRight_eq_div_pow, BitVec.toNat_ofNat]
    omega
  rw [Bool.eq_iff_iff]
  simp only [Bool.or_eq_true, decide_eq_true_eq, bne_iff_ne, ne_eq, htop]
  omega

/-- The accumulator holds the loop's value modulo `2^32`, and the overflow bit tells whether it has reached `2^32`. -/
theorem hexAccFrom_ofNat (v : Nat) (cs : HexInput) :
    hexAccFrom (BitVec.ofNat 32 v) (decide (2 ^ 32 ≤ v)) cs =
      (hexValueFrom v cs).map fun w => (BitVec.ofNat 32 w, decide (2 ^ 32 ≤ w)) := by
  induction cs generalizing v with
  | nil => rfl
  | cons c rest ih =>
    simp only [hexAccFrom, hexValueFrom]
    cases digitVal c with
    | none => rfl
    | some d =>
      simp only [shiftDigitIn_ofNat, overflow_or_topNibble v d]
      exact ih _

/-- The two forms of R64 are one function. -/
theorem parseHexInHardware_eq_parseHex (str : HexInput) : parseHexInHardware str = parseHex str := by
  unfold parseHexInHardware parseHex
  cases stripHexPrefix str with
  | nil => rfl
  | cons c rest =>
    have hloop : hexAccFrom 0 false (c :: rest) = _ := hexAccFrom_ofNat 0 (c :: rest)
    simp only [hloop]
    cases hexValueFrom 0 (c :: rest) with
    | none => rfl
    | some v => simp only [Option.map_some, decide_eq_true_eq, ← Nat.not_lt, ite_not]

/-- Settles O6: a string spells digits or is malformed, and the hardware form is `parseHex` itself. -/
theorem parseHexReadsTheNumeralOrFails : Obligations.ParseHexReadsTheNumeralOrFails := by
  constructor
  · intro r hop hr hfit
    rw [decode_parseHex hop, stringOperand_of_fits hr hfit]
    rfl
  · intro str s hfit
    rw [parseHexInHardware_eq_parseHex]
    exact ⟨fun ds h hlt => ⟨exec_parseHex_of_eq_some hfit (parseHex_of_numeral_lt h hlt) s, rfl⟩,
      fun h => ⟨exec_parseHex_of_eq_none hfit (parseHex_of_malformed h) s, rfl⟩,
      fun b hb => exec_parseHex_of_eq_some hfit hb s, fun h => exec_parseHex_of_eq_none hfit h s⟩

/-! ### The case of the digits (R65) -/

/-- A hex character means the same number in either case; every other code stays and means none. -/
@[simp] theorem digitNumber_upcase (c : CharCode) : digitNumber (upcase c) = digitNumber c := by
  revert c; decide

/-- Neither the zero nor the letters of a prefix are touched by `upcase`, and nothing becomes one of them. -/
theorem upcase_eq_prefixChar_iff (c : CharCode) :
    (upcase c = 0x30#8 ↔ c = 0x30#8) ∧ (upcase c = 0x78#8 ↔ c = 0x78#8) ∧ (upcase c = 0x58#8 ↔ c = 0x58#8) := by
  revert c; decide

/-- The uppercase form of a string has a prefix exactly where the string has one. -/
theorem digitsOf_map_upcase (str : HexInput) : digitsOf (str.map upcase) = (digitsOf str).map upcase := by
  simp [digitsOf, upcase_eq_prefixChar_iff, apply_ite (List.map upcase)]

/-- Settles O17: prefix, numbers of the digits and length are those of the string. -/
theorem parseIgnoresTheCaseOfDigits : Obligations.ParseIgnoresTheCaseOfDigits := by
  intro str s
  have hdigits : (digitsOf (str.map upcase)).map digitNumber = (digitsOf str).map digitNumber := by
    simp [digitsOf_map_upcase]
  exact exec_parseHex_congr (List.length_map upcase) (parseHex_congr hdigits) s

/-! ### The prefix (R66) -/

theorem digitsOf_zero_prefixLetter {x : CharCode} (hx : x = 0x78#8 ∨ x = 0x58#8) (rest : HexInput) :
    digitsOf (0x30#8 :: x :: rest) = rest := by
  simp [digitsOf, hx]

/-- Without its zero, a letter at index 0 begins no prefix. -/
theorem digitsOf_of_head_ne_zero {c : CharCode} (hc : c ≠ 0x30#8) (rest : HexInput) :
    digitsOf (c :: rest) = c :: rest := by
  simp [digitsOf, hc]

/-- A second zero is no prefix letter. -/
theorem digitsOf_zero_zero (rest : HexInput) : digitsOf (0x30#8 :: 0x30#8 :: rest) = 0x30#8 :: 0x30#8 :: rest := by
  simp [digitsOf]

/-- The prefix letters are no hex characters (R43). -/
theorem digitNumber_prefixLetter {x : CharCode} (hx : x = 0x78#8 ∨ x = 0x58#8) : digitNumber x = none := by
  obtain rfl | rfl := hx <;> rfl

/-- Settles O18: one prefix is cut off; any further prefix letter is a non-hex character among the digits. -/
theorem prefixIsSkippedOnceAtTheStart : Obligations.PrefixIsSkippedOnceAtTheStart := by
  intro x rest s hx
  have hletter := digitNumber_prefixLetter hx
  have hx0 : x ≠ 0x30#8 := by rintro rfl; simp at hx
  have hshort {str : HexInput} (h : str.length ≤ 10) : str.length ≤ Config.hexInMax := h.trans ten_le_hexInMax
  have hfails {str : HexInput} (hfit : str.length ≤ Config.hexInMax) (hmem : x ∈ digitsOf str) :
      exec (.parseHex str) s = .next (answered s .malformedHexInput) :=
    exec_parseHex_of_eq_none hfit (parseHex_non_hex ⟨x, hmem, hletter⟩) s
  refine ⟨fun hrest hfit => ?_, fun hfit => ⟨hfails ?_ ?_, hfails ?_ ?_, hfails ?_ ?_⟩, ?_, ?_, ?_⟩
  · have hsame : digitsOf (0x30#8 :: x :: rest) = digitsOf rest := by rw [digitsOf_zero_prefixLetter hx, hrest]
    exact exec_parseHex_congr_of_fits (by exact hfit) (by omega) (parseHex_congr (by rw [hsame])) s
  · exact hfit
  · simp [digitsOf_zero_prefixLetter hx]
  · rw [List.length_cons]; omega
  · simp [digitsOf_of_head_ne_zero hx0]
  · simp only [List.length_cons]; omega
  · simp [digitsOf_zero_zero]
  · exact exec_parseHex_of_eq_some (hshort (by decide)) (by decide) s
  · exact exec_parseHex_of_eq_some (hshort (by simp)) (by obtain rfl | rfl := hx <;> decide) s
  · exact exec_parseHex_of_eq_some (hshort (by simp)) (by obtain rfl | rfl := hx <;> decide) s

/-! ### A non-hex character (R68) -/

/-- Settles O19: the character stands among those after the prefix. -/
theorem oneNonHexCharacterFails : Obligations.OneNonHexCharacterFails := by
  intro str before after c s hfit hdigits hc
  have hnone : parseHex str = none := parseHex_non_hex ⟨c, by simp [hdigits], hc⟩
  exact ⟨exec_parseHex_of_eq_none hfit hnone s, exec_hexToFloat_of_eq_none hfit hnone s⟩

/-! ### The number of digits (R69, R70, R72) -/

/-- Hex characters only: there is no prefix to cut off. -/
theorem digitsOf_of_all_hex {str : HexInput} (h : ∀ c ∈ str, (digitNumber c).isSome) : digitsOf str = str := by
  refine if_neg fun ⟨_, hletter⟩ => ?_
  obtain hx | hx := hletter <;> exact absurd (h _ (List.mem_of_getElem? hx)) (by decide)

/-- A nonempty row of hex characters spells its digits. -/
theorem exists_spells_of_all_hex {str : HexInput} (hne : str ≠ []) (h : ∀ c ∈ str, (digitNumber c).isSome) :
    ∃ ds, Spells str ds := by
  obtain ⟨ds, hds⟩ := exists_digits fun c hc => Option.isSome_iff_ne_none.1 (h c hc)
  refine ⟨ds, ⟨?_, (digitsOf_of_all_hex h).symm ▸ hds⟩⟩
  rintro rfl
  exact hne (by simpa using hds)

/-- Leading zeros add nothing to a numeral. -/
@[simp] theorem numeral_replicate_zero_append (n : Nat) (ds : List Nat) :
    numeral (List.replicate n 0 ++ ds) = numeral ds := by
  induction n with
  | zero => rfl
  | succ n ih => rw [List.replicate_succ, List.cons_append, numeral, ih, Nat.zero_mul, Nat.zero_add]

/-- Zeros in front of a row of hex characters are leading zeros of the digits it spells. -/
theorem spells_replicate_zero_append {str : HexInput} {ds : List Nat} (n : Nat)
    (h : ∀ c ∈ str, (digitNumber c).isSome) (hds : Spells str ds) :
    Spells (List.replicate n 0x30#8 ++ str) (List.replicate n 0 ++ ds) := by
  obtain ⟨hne, hmap⟩ := hds
  have hzero : digitNumber 0x30#8 = some 0 := by decide
  have hall : ∀ c ∈ List.replicate n 0x30#8 ++ str, (digitNumber c).isSome := by
    intro c hc
    obtain hz | hs := List.mem_append.1 hc
    · simp [List.eq_of_mem_replicate hz, hzero]
    · exact h c hs
  rw [digitsOf_of_all_hex h] at hmap
  refine ⟨by simp [hne], ?_⟩
  rw [digitsOf_of_all_hex hall]
  simp [hmap, hzero]

/-- Settles O20: success is a bound on the value alone, and leading zeros do not change the value. -/
theorem numberOfDigitsIsFree : Obligations.NumberOfDigitsIsFree := by
  constructor
  · intro str ds s hfit hds
    constructor
    · exact fun hlt => exec_parseHex_of_numeral_lt hfit hds hlt s
    · rintro ⟨b, -, hb⟩
      exact hb ▸ b.isLt
  · intro n str s hne hall hfit
    obtain ⟨ds, hds⟩ := exists_spells_of_all_hex hne hall
    refine exec_parseHex_congr_of_fits (by simpa using hfit) (by omega) ?_ s
    rw [parseHex_of_spells hds, parseHex_of_spells (spells_replicate_zero_append n hall hds),
      numeral_replicate_zero_append]

/-- At most eight digits cannot reach `2^32` (R72). -/
theorem numeral_lt_of_length_le_eight {str : HexInput} {ds : List Nat} (h : Spells str ds) (hlen : ds.length ≤ 8) :
    numeral ds < 2 ^ 32 :=
  calc numeral ds < 16 ^ ds.length := numeral_lt (digits_lt_of_map h.2)
    _ ≤ 16 ^ 8 := Nat.pow_le_pow_right (by decide) hlen
    _ = 2 ^ 32 := by decide

/-- Nine or more digits with a nonzero first one reach `2^32` (R69). -/
theorem le_numeral_of_eight_lt_length {ds : List Nat} (hlen : 8 < ds.length) (hhead : ds.head? ≠ some 0) :
    2 ^ 32 ≤ numeral ds := by
  cases ds with
  | nil => simp at hlen
  | cons d rest =>
    have hd : 0 < d := by simpa [Nat.pos_iff_ne_zero] using hhead
    calc 2 ^ 32 = 16 ^ 8 := by decide
      _ ≤ 16 ^ rest.length := Nat.pow_le_pow_right (by decide) (by simpa using hlen)
      _ ≤ d * 16 ^ rest.length := Nat.le_mul_of_pos_left _ hd
      _ ≤ numeral (d :: rest) := Nat.le_add_right _ _

/-- Settles O21: the count of digits bounds the value, and the value alone decides. -/
theorem eightDigitsFitAndGreaterValuesFail : Obligations.EightDigitsFitAndGreaterValuesFail := by
  intro str ds s hfit hds
  have hfails (hge : 2 ^ 32 ≤ numeral ds) : exec (.parseHex str) s = .next (answered s .malformedHexInput) :=
    exec_parseHex_of_eq_none hfit (parseHex_of_numeral_ge hds hge) s
  exact ⟨fun hlen => exec_parseHex_of_numeral_lt hfit hds (numeral_lt_of_length_le_eight hds hlen) s, hfails,
    fun hlen hhead => hfails (le_numeral_of_eight_lt_length hlen hhead)⟩

end Sys2Proof.Machine

/-! PROOFS. The compositions (`43_compositions.md`): each answers what its two-transaction expansion answers, the error
included (R77, R78), so what it answers (R73 to R76) and the round trips follow from those of the primitives. -/

namespace Sys2Proof.Machine

open Sys2Proof.Safety

/-- The response of an instruction is one only: `responseOf`, of an instruction that can be presented. -/
theorem exec_eq_answered_iff {i : Instr} {s : State} {r : Response} :
    exec i s = .next (answered s r) ↔ i.wellFormed = true ∧ responseOf i = r := by
  rw [exec_next_iff, answered_injective, eq_comm (a := r)]

/-! ### The responses of `parseHex`, told apart -/

/-- A response that carries a pattern carries the value of `parseHex`. -/
theorem responseOf_parseHex_eq_bits {str : HexInput} {b : BitPattern} :
    responseOf (.parseHex str) = .bits b ↔ parseHex str = some b := by
  cases h : parseHex str <;> simp [responseOf, h]

/-- The error stands for no value. -/
theorem responseOf_parseHex_eq_malformed {str : HexInput} :
    responseOf (.parseHex str) = .malformedHexInput ↔ parseHex str = none := by
  cases h : parseHex str <;> simp [responseOf, h]

/-- `bitsToFloat` raises nothing, so `hexToFloat` raises where the inner `parseHex` does and nowhere else (R78). -/
theorem responseOf_hexToFloat_eq_malformed {str : HexInput} :
    responseOf (.hexToFloat str) = .malformedHexInput ↔ parseHex str = none := by
  cases h : parseHex str <;> simp [responseOf, hexToFloat, h]

/-! ### A composition is its expansion (R77, R78) -/

theorem exec_floatToLanes_eq_expansion (f : FloatValue) (s : State) :
    exec (.floatToLanes f) s = exec (.decomposeToLanes (floatToBits f)) s := rfl

theorem exec_lanesToFloat_eq_expansion (lanes : ByteLanes) (s : State) :
    exec (.lanesToFloat lanes) s = exec (.bitsToFloat (composeFromLanes lanes)) s := rfl

theorem exec_floatToHex_eq_expansion (f : FloatValue) (s : State) :
    exec (.floatToHex f) s = exec (.renderHex (floatToBits f)) s := rfl

/-- Where the inner `parseHex` has a value, `hexToFloat` is `bitsToFloat` of it. -/
theorem exec_hexToFloat_eq_expansion {str : HexInput} {b : BitPattern} (hfit : (Instr.parseHex str).wellFormed = true)
    (hb : parseHex str = some b) (s : State) : exec (.hexToFloat str) s = exec (.bitsToFloat b) s := by
  have hresponse : responseOf (.hexToFloat str) = responseOf (.bitsToFloat b) := by simp [responseOf, hexToFloat, hb]
  rw [exec_of_wellFormed (i := .bitsToFloat b) rfl]
  exact exec_eq_answered (i := .hexToFloat str) hfit hresponse s

/-- `hexToFloat` answers the error exactly where `parseHex` answers it (R76, R78). -/
theorem exec_hexToFloat_malformed_iff {str : HexInput} {s : State} :
    exec (.hexToFloat str) s = .next (answered s .malformedHexInput) ↔
      exec (.parseHex str) s = .next (answered s .malformedHexInput) := by
  rw [exec_eq_answered_iff, exec_eq_answered_iff, responseOf_hexToFloat_eq_malformed, responseOf_parseHex_eq_malformed]
  rfl

/-- Settles O16: the pattern that the inner primitive answers is its value, and the outer one reads nothing else. -/
theorem compositionEqualsItsExpansion : Obligations.CompositionEqualsItsExpansion := by
  intro s
  refine ⟨fun f b r hinner => ?_, fun lanes b r hinner => ?_, fun str b r hinner => ?_,
    fun _ => exec_hexToFloat_malformed_iff.2⟩
  · obtain ⟨-, hb⟩ := exec_eq_answered_iff.1 hinner
    obtain rfl : floatToBits f = b := Response.bits.inj hb
    rw [exec_floatToLanes_eq_expansion, exec_floatToHex_eq_expansion]
    exact ⟨Iff.rfl, Iff.rfl⟩
  · obtain ⟨-, hb⟩ := exec_eq_answered_iff.1 hinner
    obtain rfl : composeFromLanes lanes = b := Response.bits.inj hb
    rw [exec_lanesToFloat_eq_expansion]
  · obtain ⟨hfit, hb⟩ := exec_eq_answered_iff.1 hinner
    rw [exec_hexToFloat_eq_expansion hfit (responseOf_parseHex_eq_bits.1 hb)]

/-! ### What each composition answers (R73 to R76) -/

/-- Settles O8: joining the lanes of a split gives the pattern back, and the join is the concatenation. -/
theorem floatToLanesSplitsThePattern : Obligations.FloatToLanesSplitsThePattern := by
  refine ⟨fun _ hop => decode_of_select (o := .floatToLanes) hop,
    fun f s => ⟨floatToLanes f, exec_of_wellFormed rfl s, ?_, rfl⟩⟩
  calc f.pattern = composeFromLanes (floatToLanes f) := (composeFromLanes_decomposeToLanes f.pattern).symm
    _ = _ := composeFromLanes_eq_append (floatToLanes f)

/-- Settles O9: the cast keeps the joined word, and the join is the concatenation. -/
theorem lanesToFloatJoinsThePattern : Obligations.LanesToFloatJoinsThePattern :=
  ⟨fun _ hop => decode_of_select (o := .lanesToFloat) hop,
    fun lanes s => ⟨lanesToFloat lanes, exec_of_wellFormed rfl s, composeFromLanes_eq_append lanes, rfl⟩⟩

/-- Settles O10: the expansion renders the float's pattern, and what a rendering looks like is O5. -/
theorem floatToHexRendersThePattern : Obligations.FloatToHexRendersThePattern := by
  refine ⟨fun _ hop => decode_of_select (o := .floatToHex) hop, fun f s => ?_⟩
  obtain ⟨-, hrender⟩ := renderHexWritesEightUppercaseDigits
  rw [exec_floatToHex_eq_expansion]
  exact hrender (floatToBits f) s

/-- A string that fits and has a value is answered with the float of that pattern (R76). -/
theorem exec_hexToFloat_of_eq_some {str : HexInput} {b : BitPattern} (hfit : str.length ≤ Config.hexInMax)
    (hb : parseHex str = some b) (s : State) : exec (.hexToFloat str) s = .next (answered s (.float ⟨b⟩)) := by
  have hpresentable : (Instr.parseHex str).wellFormed = true := by simpa [Instr.wellFormed, presentable] using hfit
  rw [exec_hexToFloat_eq_expansion hpresentable hb]
  exact exec_of_wellFormed rfl s

/-- Settles O11: digits that fit a word are the value of the inner `parseHex`; every failure is the inner one's. -/
theorem hexToFloatReadsThePatternOrFails : Obligations.HexToFloatReadsThePatternOrFails := by
  constructor
  · intro r hop hr hfit
    rw [decode_hexToFloat hop, stringOperand_of_fits hr hfit]
    rfl
  · intro str s hfit
    exact ⟨fun ds h hlt => ⟨exec_hexToFloat_of_eq_some hfit (parseHex_of_numeral_lt h hlt) s, rfl⟩,
      exec_hexToFloat_malformed_iff, fun h => exec_hexToFloat_of_eq_none hfit (parseHex_of_malformed h) s⟩

/-! ### The round trips (R77) -/

@[simp] theorem lanesToFloat_floatToLanes (f : FloatValue) : lanesToFloat (floatToLanes f) = f := by
  rw [lanesToFloat, floatToLanes, composeFromLanes_decomposeToLanes, bitsToFloat_floatToBits]

@[simp] theorem floatToLanes_lanesToFloat (lanes : ByteLanes) : floatToLanes (lanesToFloat lanes) = lanes := by
  rw [floatToLanes, lanesToFloat, floatToBits_bitsToFloat, decomposeToLanes_composeFromLanes]

/-- Settles O15: the round trips of lanes, text and the bit cast, one inside the other. -/
theorem floatSurvivesLanesAndText : Obligations.FloatSurvivesLanesAndText := fun s =>
  ⟨fun f => ⟨floatToLanes f, exec_of_wellFormed rfl s,
      exec_eq_answered rfl (by rw [responseOf, lanesToFloat_floatToLanes]) s⟩,
    fun lanes => ⟨lanesToFloat lanes, exec_of_wellFormed rfl s,
      exec_eq_answered rfl (by rw [responseOf, floatToLanes_lanesToFloat]) s⟩,
    fun f => ⟨floatToHex f, exec_of_wellFormed rfl s,
      exec_hexToFloat_of_eq_some (hexString_fits _) (parseHex_renderHex (floatToBits f)) s⟩⟩

end Sys2Proof.Machine

/-! PROOFS. Exceptions (`60_exceptions.md`): when the one error is raised and by which operations (R81, R82), that it leaves
nothing behind (R88), callers that share the block (R91), what is refused (R92), and that a lawful run never stops (R94). -/

namespace Sys2Proof.Machine

open Sys2Proof.Safety

/-! ### The three causes of the error (R81) -/

/-- `parseHex` has no value in the three cases of R81 and in no other. -/
theorem parseHex_eq_none_iff_malformed {str : HexInput} : parseHex str = none ↔ Malformed str := by
  refine ⟨fun hnone => ?_, parseHex_of_malformed⟩
  obtain hempty | hbad | ⟨ds, hds⟩ := string_cases str
  · exact .inl hempty
  · exact .inr (.inl hbad)
  · refine .inr (.inr ⟨ds, hds, Nat.not_lt.1 fun hlt => ?_⟩)
    simp [parseHex_of_numeral_lt hds hlt] at hnone

/-- `parseHex` of a string that fits answers the error exactly on a malformed string. -/
theorem exec_parseHex_malformed_iff {str : HexInput} (hfit : str.length ≤ Config.hexInMax) {s : State} :
    exec (.parseHex str) s = .next (answered s .malformedHexInput) ↔ Malformed str := by
  have hpresentable : (Instr.parseHex str).wellFormed = true := by simpa [Instr.wellFormed, presentable] using hfit
  rw [exec_eq_answered_iff, responseOf_parseHex_eq_malformed, parseHex_eq_none_iff_malformed]
  exact and_iff_right hpresentable

/-- Settles O7: a string that is not malformed has a value, and `hexToFloat` raises exactly where `parseHex` does. -/
theorem errorIsRaisedInExactlyThreeCases : Obligations.ErrorIsRaisedInExactlyThreeCases := fun _ _ hfit =>
  ⟨exec_parseHex_malformed_iff hfit, exec_hexToFloat_malformed_iff.trans (exec_parseHex_malformed_iff hfit)⟩

/-! ### The operations that raise the error (R82) -/

theorem canSetErr_iff {o : Operation} : o.canSetErr = true ↔ o = .parseHex ∨ o = .hexToFloat := by
  cases o <;> decide

/-- An instruction that answers the error is of an operation that the column "can set `err`" of R39 names. -/
theorem canSetErr_of_responseOf_malformed {i : Instr} (h : responseOf i = .malformedHexInput) :
    i.operation.canSetErr = true := by
  obtain ⟨hport, -⟩ | ⟨herr, -⟩ := responseOf_port_or_error i
  · rw [h] at hport
    cases hport
  · exact herr

/-- Settles O27: the empty string makes either parser raise; every other answer drives a result port. -/
theorem onlyTheTwoParsersRaiseTheError : Obligations.OnlyTheTwoParsersRaiseTheError := by
  intro o
  constructor
  · rintro (rfl | rfl)
    · exact ⟨.parseHex [], State.reset, rfl, rfl⟩
    · exact ⟨.hexToFloat [], State.reset, rfl, rfl⟩
  · rintro ⟨i, s, rfl, h⟩
    obtain ⟨-, hresponse⟩ := exec_eq_answered_iff.1 h
    exact canSetErr_iff.1 (canSetErr_of_responseOf_malformed hresponse)

/-! ### The error leaves nothing behind (R88) -/

/-- Settles O36: both parsers leave `s` with the error added, and a response is the same in every state. -/
theorem errorLeavesNothingBehind : Obligations.ErrorLeavesNothingBehind := by
  intro i s str resp hfit hmal hi
  have hnone := parseHex_of_malformed hmal
  obtain ⟨hpresentable, hresponse⟩ := exec_eq_answered_iff.1 hi
  exact ⟨answered s .malformedHexInput, exec_parseHex_of_eq_none hfit hnone s, exec_hexToFloat_of_eq_none hfit hnone s,
    rfl, exec_eq_answered hpresentable hresponse _⟩

/-! ### What is refused (R92) -/

/-- The select codes of the operations whose format reads the string operand (R39). -/
theorem format_eq_S_iff {o : Operation} : o.format = .S ↔ o.select = 0x5#4 ∨ o.select = 0x9#4 := by
  cases o <;> decide

/-- The requests of this hardware without a meaning (R92 a, b). -/
theorem decode_error_iff {r : Request} (hr : r.wellFormed = true) : (∃ e, decode r = .error e) ↔
    10 ≤ r.op.toNat ∨ ((r.op = 0x5#4 ∨ r.op = 0x9#4) ∧ Config.hexInMax < r.hexLen) := by
  constructor
  · rintro ⟨e, he⟩
    obtain ⟨hop, -⟩ | ⟨o, hop, hformat, -⟩ := decode_error_cases he
    · exact .inl hop
    · have hparser : r.op = 0x5#4 ∨ r.op = 0x9#4 := hop ▸ format_eq_S_iff.1 hformat
      refine .inr ⟨hparser, Nat.not_le.1 fun hfit => ?_⟩
      obtain ⟨str, -, -, hparse, hfloat⟩ := stringOperandIsTheFirstSlots.1 r hr hfit
      obtain h5 | h9 := hparser
      · simp [hparse h5] at he
      · simp [hfloat h9] at he
  · rintro (hop | ⟨hop, hlong⟩)
    · exact ⟨_, decode_of_reserved hop⟩
    · exact ⟨_, stringOperandIsTheFirstSlots.2 r hlong hop⟩

/-- An instruction is presentable unless it parses a string longer than `HEX_IN_MAX` (R92 c). -/
theorem wellFormed_eq_false_iff {i : Instr} : i.wellFormed = false ↔
    ∃ str : HexInput, (i = .parseHex str ∨ i = .hexToFloat str) ∧ Config.hexInMax < str.length := by
  constructor
  · intro h
    obtain ⟨str, hi, hlong, -⟩ := exec_of_not_wellFormed h State.reset
    exact ⟨str, hi, hlong⟩
  · rintro ⟨str, rfl | rfl, hlong⟩ <;> simpa [Instr.wellFormed, presentable] using hlong

/-- An instruction is refused exactly when it cannot be presented. -/
theorem exec_refused_iff {i : Instr} {s : State} : (∃ why, exec i s = .refused why) ↔ i.wellFormed = false := by
  cases hi : i.wellFormed with
  | true => simp [exec_of_wellFormed hi]
  | false =>
    obtain ⟨str, -, -, he⟩ := exec_of_not_wellFormed hi s
    simp [he]

/-- Settles O34: a step is refused for what does not decode, an instruction for not being presentable. -/
theorem exactlyTheMeaninglessIsRefused : Obligations.ExactlyTheMeaninglessIsRefused := by
  constructor
  · intro r rest done hr
    rw [← decode_error_iff hr]
    simp only [step_eq_refused_iff]
    exact ⟨fun ⟨_, e, he, _⟩ => ⟨e, he⟩, fun ⟨e, he⟩ => ⟨_, e, he, rfl⟩⟩
  · exact fun i s => exec_refused_iff.trans wellFormed_eq_false_iff

/-! ### A lawful run never stops (R94) -/

/-- A run that does not stop has not stopped before. -/
theorem safeRun_of_le {k n : Nat} (hkn : k ≤ n) {s : State} (h : SafeRun n s) : SafeRun k s := by
  induction k generalizing n s with
  | zero => exact ⟨s, rfl⟩
  | succ k ih =>
    obtain ⟨m, rfl⟩ : ∃ m, n = m + 1 := ⟨n - 1, by omega⟩
    simp only [SafeRun, Host.Core.run] at h ⊢
    cases hstep : core.step s with
    | next u =>
      simp only [hstep] at h ⊢
      exact ih (by omega) h
    | fault why => simp [hstep] at h
    | refused why => simp [hstep] at h

/-- Settles O37: the run answers the pending requests one by one, and what reaches its end has not stopped before. -/
theorem lawfulRunAnswersEveryRequest : Obligations.LawfulRunAnswersEveryRequest := by
  intro s hs
  have hrun := run_of_lawful (List.all_eq_true.1 hs) s.responses
  exact ⟨_, hrun, rfl, by simp, List.prefix_append _ _, fun k hk => safeRun_of_le hk ⟨_, hrun⟩⟩

/-! ### Callers that share the block (R91) -/

/-- With each request's answer written beside it, the answers at the places of some requests are the answers to these. -/
theorem map_snd_filter_zip_map {α β : Type} (answer : α → β) (own : α → Bool) (calls : List α) :
    ((calls.zip (calls.map answer)).filter fun q => own q.1).map Prod.snd = (calls.filter own).map answer := by
  rw [← List.map_prod_left_eq_zip, List.filter_map, List.map_map]
  rfl

/-- A run of labelled lawful requests from no response answers each with its own response, whatever the labels. -/
theorem run_of_lawful_calls {calls : List (Nat × Request)} (h : ∀ call ∈ calls, lawful call.2 = true) :
    core.run calls.length { pending := calls.map Prod.snd, responses := [] } =
      .next { pending := [], responses := calls.map fun call => responseTo call.2 } := by
  have hall : ∀ r ∈ calls.map Prod.snd, lawful r = true := List.forall_mem_map.2 h
  simpa [Function.comp_def] using run_of_lawful hall []

/-- Settles O39: the shared run and the caller's own run answer each request by the one function `responseTo`. -/
theorem eachCallerSeesAPrivateInstance : Obligations.EachCallerSeesAPrivateInstance := by
  intro calls t hlawful hrun caller own
  have hown : ∀ call ∈ own, lawful call.2 = true := fun call hc => hlawful call (List.mem_of_mem_filter hc)
  obtain rfl := Host.Outcome.next.inj ((run_of_lawful_calls hlawful).symm.trans hrun)
  rw [run_of_lawful_calls hown,
    map_snd_filter_zip_map (fun call => responseTo call.2) (fun call => call.1 == caller) calls]

end Sys2Proof.Machine

/-! PROOFS. Reset and the host's side (`70_reset_and_hazards.md`): what a step does before the first request and with it
(R97, R98), and what the host's output property holds after its two events (R101, R102). -/

namespace Sys2Proof.Machine

open Sys2Proof.Safety

/-! ### Reset and the first transaction (R95, R97, R98) -/

/-- Settles O32: the first arm of the step, for an empty list of requests. -/
theorem stepWithNoRequestChangesNothing : Obligations.StepWithNoRequestChangesNothing := by
  intro s hidle
  simp [step, hidle]

/-- Settles O41: neither list of the reset state has a member. -/
theorem resetMeetsTheInvariant : Obligations.ResetMeetsTheInvariant := by
  constructor
  · intro r hr
    simp at hr
  · intro resp hresp
    simp at hresp

/-- Settles O40: a lawful request decodes, and the step adds the response of its instruction, whatever the two lists hold. -/
theorem firstTransactionAfterResetIsLikeAnyOther : Obligations.FirstTransactionAfterResetIsLikeAnyOther := by
  intro r hr
  obtain ⟨i, hi⟩ := decode_of_lawful hr
  exact ⟨responseOf i, step_of_decode hi [] [], step_of_decode hi⟩

/-! ### What a host's channels stand for (R101, R102) -/

/-- The float that a host's channels carry, by the host's variant (R104). -/
def HostChannels.carried : HostChannels → FloatValue
  | .single word => bitsToFloat word
  | .four latches => lanesToFloat latches

/-- The request of a signal change is answered with the float that the channels carry. -/
theorem exec_signalChanged (channels : HostChannels) (s : State) :
    exec channels.signalChanged s = .next (answered s (.float channels.carried)) := by
  cases channels with
  | single word => exact exec_of_wellFormed (i := .bitsToFloat word) rfl s
  | four latches => exact exec_of_wellFormed (i := .lanesToFloat latches) rfl s

/-- The request of a property change needs no string, so it can always be presented. -/
@[simp] theorem propertyChanged_wellFormed (channels : HostChannels) (f : FloatValue) :
    (channels.propertyChanged f).wellFormed = true := by
  cases channels <;> rfl

/-- With the answer to a property change written into them, the channels carry the property's float. -/
@[simp] theorem carried_store_propertyChanged (channels : HostChannels) (f : FloatValue) :
    (channels.store (responseOf (channels.propertyChanged f))).carried = f := by
  cases channels with
  | single word => exact bitsToFloat_floatToBits f
  | four latches => exact lanesToFloat_floatToLanes f

/-- Settles O45: the channels written carry the float, and reading them back answers what they carry. -/
theorem hostSendsAndReadsBackTheFloat : Obligations.HostSendsAndReadsBackTheFloat := by
  intro host f s
  have hcarried := carried_store_propertyChanged host.channels f
  refine ⟨responseOf (host.channels.propertyChanged f), .float f, exec_of_wellFormed (by simp) s, ?_, rfl, ?_, ?_, ?_⟩
  · rw [writeChannels_channels, exec_signalChanged, hcarried]
  · exact writeChannels_output host _
  · exact writeOutput_float _ f
  · exact writeOutput_channels _ _

/-! ### A signal accumulated and read (R100, R102) -/

/-- Bit `j` of lane `k` of a joined word, by the place of the lane in the word (R25). -/
theorem composeFromLanes_getLsbD_lane (lanes : ByteLanes) (k : Fin 4) {j : Nat} (hj : j < 8) :
    (composeFromLanes lanes).getLsbD (24 - 8 * k.val + j) = (lanes.get k).getLsbD j := by
  rw [← laneAt_getLsbD _ _ _ hj, laneAt_composeFromLanes]

/-- Settles O47: the property is written with what the accumulated channels carry, and each latch holds the last byte
brought for it or what it held. -/
theorem signalChangeWritesTheOutputProperty : Obligations.SignalChangeWritesTheOutputProperty := by
  intro output s
  refine ⟨fun lanes changes => ⟨_, exec_signalChanged _ s, accumulate_output _ _, fun channel j hj => ?_⟩,
    fun word value => ⟨_, exec_signalChanged _ s, accumulate_output _ _, ?_⟩⟩
  · rw [writeOutput_float, ← latchAll_get]
    exact composeFromLanes_getLsbD_lane (latchAll changes lanes) channel.lane hj
  · rw [writeOutput_float]
    rfl

end Sys2Proof.Machine
